-- ==== Sys2Proof/Word.lean ====
section
/-! DEFINITION. The words of the block: the widths rule R7 and the formats of rule R70 fix. -/

namespace Sys2Proof

/-- Register data, 8 bits (R7). -/
abbrev Byte := BitVec 8

/-- One unit of the command port: an F-CMD or F-PAY word (R73, R74). -/
abbrev CmdWord := BitVec 32

/-- An F-PKT register-write packet (R71). -/
abbrev PktWord := BitVec 16

/-- An F-PE pin-event code (R72). -/
abbrev PinCode := BitVec 3

/-- A stored display word, 64 bits for every geometry (R7, D32). -/
abbrev DisplayWord := BitVec 64

end Sys2Proof
end

