-- ==== Sys2Proof/Config.lean ====
section
/-! DEFINITION. What an implementation fixes: the coordinate width, the construction arguments that
`State.reset` uses, and the free values of 93_implementation_defined.md (opaque, without a body). -/

namespace Sys2Proof.Config

/-- COORD_W, the width of the ROW and COL fields: the constant 12 (R6, R21, D5). -/
def coordW : Nat := 12

/-- DESIGN CHOICE (notes/assumptions/1.md, unsafe): the construction arguments of the one instance that
`State.reset` is. The spec takes them as parameters (R6, I12); these are the 8 by 8, one-display grid of
the source's concrete example E1. Every statement is about every legal geometry, not about this one. -/
def resetDR : Nat := 8
/-- DC of the instance `State.reset` (notes/assumptions/1.md). -/
def resetDC : Nat := 8
/-- V of the instance `State.reset` (notes/assumptions/1.md). -/
def resetV : Nat := 1
/-- H of the instance `State.reset` (notes/assumptions/1.md). -/
def resetH : Nat := 1
/-- CHECKED of the instance `State.reset` (notes/assumptions/1.md). -/
def resetChecked : Bool := false

/-- Free value (I6, R180; notes/assumptions/5.md): the level, high or not, that a line no event has driven
is found at when an event depends on it. The argument is the draw's number, `State.freeIndex`. -/
opaque undrivenLevel : Nat → Bool

/-- Free value (I5, I7; notes/assumptions/6.md): the byte a chip register holds after a write whose effect the
spec does not state. The arguments are the draw's number and the register's address. -/
opaque chipByte : Nat → Nat → Byte

/-- Free constant (G2, R181; notes/assumptions/7.md): whether the chips sample the data line at the rising
edge of the clock pulse (true) or at its falling edge (false). -/
opaque samplesOnRise : Bool

end Sys2Proof.Config
end

