-- ==== Sys2Proof/Syntax.lean ====
section
/-! DEFINITION. The instructions: one constructor per row of the opcode table, in the table's order.
The commands carry the operands of the abstract command interface (R80), so a coordinate is an integer
and an address a natural number; WellFormed.lean says which of them a binary word can carry. -/

namespace Sys2Proof

/-- A register write: an address and a data byte (R13, R80). The address may be wider than 4 bits; only its
low 4 bits reach the wire (R71). -/
structure RegWrite where
  addr : Nat
  data : Byte
  deriving DecidableEq, Repr

/-- The six pin events (R13, R72). -/
inductive PinEvent where
  | csh | csl | ckh | ckl | dh | dl
  deriving DecidableEq, Repr

/-- The instructions of the opcode table. The first ten are words of the command port, executed by the block.
The next sixteen are the packets, each performed by the chip that latched it. The last six are the pin
events, each replayed by the pin executor. -/
inductive Instr where
  /-- SETLED (R133). -/
  | setled (row col : Int) (on : Bool)
  /-- GETLED (R132). -/
  | getled (row col : Int)
  /-- DRAW (R137). -/
  | draw
  /-- RESET (R141). -/
  | reset
  /-- EXECALL (R144). -/
  | execall (addr : Nat) (data : Byte)
  /-- EXEC with the writes of its payload, display 0's first (R145, R74). -/
  | exec (batch : List RegWrite)
  /-- EXEC.PAYLOAD: one payload word of an EXEC (R74, R76). -/
  | execPayload (addr : Nat) (data : Byte)
  /-- NUMERIC (R202). -/
  | numeric (operand : BitVec 28)
  /-- ILLEGAL.OP0: a command word with OP = 0 (R203). -/
  | illegalOp0 (operand : BitVec 28)
  /-- ILLEGAL.OP8_F: a command word with OP in 8..15; the operand is bits [30:0] (R203). -/
  | illegalOp8F (operand : BitVec 31)
  /-- Packet NOOP (R101). -/
  | noop (data : Byte)
  /-- Packet DIGIT0 (R102). -/
  | digit0 (data : Byte)
  /-- Packet DIGIT1 (R103). -/
  | digit1 (data : Byte)
  /-- Packet DIGIT2 (R104). -/
  | digit2 (data : Byte)
  /-- Packet DIGIT3 (R105). -/
  | digit3 (data : Byte)
  /-- Packet DIGIT4 (R106). -/
  | digit4 (data : Byte)
  /-- Packet DIGIT5 (R107). -/
  | digit5 (data : Byte)
  /-- Packet DIGIT6 (R108). -/
  | digit6 (data : Byte)
  /-- Packet DIGIT7 (R109). -/
  | digit7 (data : Byte)
  /-- Packet DECODEMODE (R110). -/
  | decodemode (data : Byte)
  /-- Packet INTENSITY (R115). -/
  | intensity (data : Byte)
  /-- Packet SCANLIMIT (R112). -/
  | scanlimit (data : Byte)
  /-- Packet SHUTDOWN (R113). -/
  | shutdown (data : Byte)
  /-- Packet ADDR_D (R116). -/
  | addrD (data : Byte)
  /-- Packet ADDR_E (R116). -/
  | addrE (data : Byte)
  /-- Packet DISPLAYTEST (R114). -/
  | displaytest (data : Byte)
  /-- Pin event CSH (R175). -/
  | csh
  /-- Pin event CSL (R174). -/
  | csl
  /-- Pin event CKH (R176). -/
  | ckh
  /-- Pin event CKL (R177). -/
  | ckl
  /-- Pin event DH (R178). -/
  | dh
  /-- Pin event DL (R179). -/
  | dl
  deriving DecidableEq, Repr

/-- Pseudo-instruction LEDON (R79). -/
def Asm.ledOn (row col : Int) : Instr := .setled row col true

/-- Pseudo-instruction LEDOFF (R79). -/
def Asm.ledOff (row col : Int) : Instr := .setled row col false

/-- Pseudo-instruction NOOPALL (R79). -/
def Asm.noopAll : Instr := .execall 0 0

end Sys2Proof
end

