-- ==== Sys2Proof/WellFormed.lean ====
section
/-! DEFINITION. Which instructions a binary word can carry (R75). Every other instruction still has its
meaning at the abstract interface (R80). -/

namespace Sys2Proof

/-- A coordinate the 12-bit ROW or COL field can carry: 0..4095, never negative (R75). -/
def coordFits (x : Int) : Bool := decide (0 ≤ x) && decide (x < 2 ^ Config.coordW)

/-- An address the 8-bit ADDR field can carry (R74, R75). -/
def addrFits (a : Nat) : Bool := decide (a < 256)

/-- The batch lengths the 28-bit COUNT field can carry (R75). -/
def countFits (n : Nat) : Bool := decide (n < 2 ^ 28)

/-- Well-formed: every operand fits the field that carries it. The other operands fit by their types. -/
def Instr.wf : Instr → Bool
  | .setled row col _ => coordFits row && coordFits col
  | .getled row col => coordFits row && coordFits col
  | .draw => true
  | .reset => true
  | .execall addr _ => addrFits addr
  | .exec batch => countFits batch.length && batch.all (fun w => addrFits w.addr)
  | .execPayload addr _ => addrFits addr
  | .numeric _ => true
  | .illegalOp0 _ => true
  | .illegalOp8F _ => true
  | .noop _ => true
  | .digit0 _ => true
  | .digit1 _ => true
  | .digit2 _ => true
  | .digit3 _ => true
  | .digit4 _ => true
  | .digit5 _ => true
  | .digit6 _ => true
  | .digit7 _ => true
  | .decodemode _ => true
  | .intensity _ => true
  | .scanlimit _ => true
  | .shutdown _ => true
  | .addrD _ => true
  | .addrE _ => true
  | .displaytest _ => true
  | .csh => true
  | .csl => true
  | .ckh => true
  | .ckl => true
  | .dh => true
  | .dl => true

end Sys2Proof
end

