-- ==== Sys2Proof/Decode.lean ====
section
/-! DEFINITION. The decoders of the four formats (30_encoding.md), total, rejecting by name; then the encoder. -/

namespace Sys2Proof

/-- `v[hi:lo]`, the field of bits hi down to lo read as an unsigned number (R8). -/
def bits {n : Nat} (v : BitVec n) (hi lo : Nat) : Nat := v.toNat / 2 ^ lo % 2 ^ (hi + 1 - lo)

/-- Why a word, or a list of words, is no instruction. -/
inductive Reject where
  /-- Not all words of the command have arrived (R76). -/
  | incomplete
  /-- A reserved bit of the command word, or of a payload word of this command, is not 0 (R77 (b), (c)). -/
  | reservedBits (command : CmdWord)
  /-- Words stand after the command, where exactly one command was asked for. -/
  | trailing
  /-- Packet bits [15:12] are not 0 (R77 (f), I9). -/
  | reservedPacketBits (word : PktWord)
  /-- Pin-event code 6 or 7 (R72, I9). -/
  | reservedPinCode (code : PinCode)
  deriving DecidableEq, Repr

/-- F-PAY: one payload word (R74), or nothing where bits [31:16] are not 0 (R77 (c)). -/
def decodePayload (w : CmdWord) : Option RegWrite :=
  if bits w 31 16 = 0 then some ⟨bits w 15 8, BitVec.ofNat 8 (bits w 7 0)⟩ else none

/-- The writes of an EXEC's payload words in order, or nothing where one has a reserved bit set (R77 (c)). -/
def decodePayloads : List CmdWord → Option (List RegWrite)
  | [] => some []
  | w :: ws =>
    match decodePayload w, decodePayloads ws with
    | some d, some ds => some (d :: ds)
    | _, _ => none

/-- F-CMD: the first command of a list of words, and the words after it (R73, R76, R77). OP is taken first,
then the reserved bits (R78); an EXEC's COUNT payload words must all be there before any of them is
looked at (R76). -/
def decodeCommand : List CmdWord → Except Reject (Instr × List CmdWord)
  | [] => .error .incomplete
  | w :: rest =>
    match bits w 31 28 with
    | 0 => .ok (.illegalOp0 (BitVec.ofNat 28 (bits w 27 0)), rest)
    | 1 =>
      if bits w 27 25 = 0 then
        .ok (.setled (bits w 23 12) (bits w 11 0) (decide (bits w 24 24 = 1)), rest)
      else .error (.reservedBits w)
    | 2 =>
      if bits w 27 24 = 0 then .ok (.getled (bits w 23 12) (bits w 11 0), rest)
      else .error (.reservedBits w)
    | 3 => if bits w 27 0 = 0 then .ok (.draw, rest) else .error (.reservedBits w)
    | 4 => if bits w 27 0 = 0 then .ok (.reset, rest) else .error (.reservedBits w)
    | 5 =>
      if bits w 27 16 = 0 then .ok (.execall (bits w 15 8) (BitVec.ofNat 8 (bits w 7 0)), rest)
      else .error (.reservedBits w)
    | 6 =>
      if rest.length < bits w 27 0 then .error .incomplete
      else
        match decodePayloads (rest.take (bits w 27 0)) with
        | some batch => .ok (.exec batch, rest.drop (bits w 27 0))
        | none => .error (.reservedBits w)
    | 7 => .ok (.numeric (BitVec.ofNat 28 (bits w 27 0)), rest)
    | _ => .ok (.illegalOp8F (BitVec.ofNat 31 (bits w 30 0)), rest)

/-- F-PKT: the register write of a packet (R71, R81, R100). -/
def decodePacket (w : PktWord) : Except Reject Instr :=
  let d := BitVec.ofNat 8 (bits w 7 0)
  if bits w 15 12 = 0 then
    match bits w 11 8 with
    | 0 => .ok (.noop d)
    | 1 => .ok (.digit0 d)
    | 2 => .ok (.digit1 d)
    | 3 => .ok (.digit2 d)
    | 4 => .ok (.digit3 d)
    | 5 => .ok (.digit4 d)
    | 6 => .ok (.digit5 d)
    | 7 => .ok (.digit6 d)
    | 8 => .ok (.digit7 d)
    | 9 => .ok (.decodemode d)
    | 10 => .ok (.intensity d)
    | 11 => .ok (.scanlimit d)
    | 12 => .ok (.shutdown d)
    | 13 => .ok (.addrD d)
    | 14 => .ok (.addrE d)
    | _ => .ok (.displaytest d)
  else .error (.reservedPacketBits w)

/-- F-PE: the pin event of a code; 6 and 7 are reserved (R72). -/
def decodePin (c : PinCode) : Except Reject Instr :=
  match c.toNat with
  | 0 => .ok .csh
  | 1 => .ok .csl
  | 2 => .ok .ckh
  | 3 => .ok .ckl
  | 4 => .ok .dh
  | 5 => .ok .dl
  | _ => .error (.reservedPinCode c)

/-- An encoded instruction: its format (R70) and its word or words. The format is part of it, because an F-PAY
word and an F-CMD word with OP = 0 can be the same 32 bits (opcode table, rows EXEC.PAYLOAD and ILLEGAL.OP0). -/
inductive Code where
  | command (words : List CmdWord)
  | payload (word : CmdWord)
  | packet (word : PktWord)
  | pin (code : PinCode)
  deriving DecidableEq, Repr

/-- The decoder of all four formats, for exactly one instruction. -/
def decode : Code → Except Reject Instr
  | .command ws =>
    match decodeCommand ws with
    | .ok (i, []) => .ok i
    | .ok (_, _ :: _) => .error .trailing
    | .error r => .error r
  | .payload w =>
    match decodePayload w with
    | some d => .ok (.execPayload d.addr d.data)
    | none => .error (.reservedBits w)
  | .packet w => decodePacket w
  | .pin c => decodePin c

/-! The encoder. -/

/-- A command word: OP in [31:28] and the rest in [27:0] (R73). -/
def commandWord (op rest : Nat) : CmdWord := BitVec.ofNat 32 (op * 2 ^ 28 + rest % 2 ^ 28)

/-- The two coordinate fields, ROW in [23:12] and COL in [11:0] (R73, R79). -/
def coordFields (row col : Int) : Nat := row.toNat % 2 ^ 12 * 2 ^ 12 + col.toNat % 2 ^ 12

/-- ADDR in [15:8] and DATA in [7:0], as in EXECALL and F-PAY (R73, R74, R79). -/
def writeFields (addr : Nat) (data : Byte) : Nat := addr % 2 ^ 8 * 2 ^ 8 + data.toNat

/-- The F-PAY word of a register write (R74). -/
def encodePayload (w : RegWrite) : CmdWord := BitVec.ofNat 32 (writeFields w.addr w.data)

/-- The F-PKT packet of a register write: ((address & 0xF) << 8) | data (R71). -/
def packet (w : RegWrite) : PktWord := BitVec.ofNat 16 (w.addr % 16 * 2 ^ 8 + w.data.toNat)

/-- The F-PE code of a pin event (R72). -/
def PinEvent.code : PinEvent → PinCode
  | .csh => 0
  | .csl => 1
  | .ckh => 2
  | .ckl => 3
  | .dh => 4
  | .dl => 5

/-- The pin event as the executor's instruction (R13, R72). -/
def PinEvent.instr : PinEvent → Instr
  | .csh => .csh
  | .csl => .csl
  | .ckh => .ckh
  | .ckl => .ckl
  | .dh => .dh
  | .dl => .dl

/-- The words of an instruction, from the encoding tables of 30_encoding.md. -/
def encode : Instr → Code
  | .setled row col on => .command [commandWord 1 (on.toNat * 2 ^ 24 + coordFields row col)]
  | .getled row col => .command [commandWord 2 (coordFields row col)]
  | .draw => .command [commandWord 3 0]
  | .reset => .command [commandWord 4 0]
  | .execall addr data => .command [commandWord 5 (writeFields addr data)]
  | .exec batch => .command (commandWord 6 batch.length :: batch.map encodePayload)
  | .execPayload addr data => .payload (encodePayload ⟨addr, data⟩)
  | .numeric operand => .command [commandWord 7 operand.toNat]
  | .illegalOp0 operand => .command [commandWord 0 operand.toNat]
  | .illegalOp8F operand => .command [BitVec.ofNat 32 (2 ^ 31 + operand.toNat)]
  | .noop data => .packet (packet ⟨0x0, data⟩)
  | .digit0 data => .packet (packet ⟨0x1, data⟩)
  | .digit1 data => .packet (packet ⟨0x2, data⟩)
  | .digit2 data => .packet (packet ⟨0x3, data⟩)
  | .digit3 data => .packet (packet ⟨0x4, data⟩)
  | .digit4 data => .packet (packet ⟨0x5, data⟩)
  | .digit5 data => .packet (packet ⟨0x6, data⟩)
  | .digit6 data => .packet (packet ⟨0x7, data⟩)
  | .digit7 data => .packet (packet ⟨0x8, data⟩)
  | .decodemode data => .packet (packet ⟨0x9, data⟩)
  | .intensity data => .packet (packet ⟨0xA, data⟩)
  | .scanlimit data => .packet (packet ⟨0xB, data⟩)
  | .shutdown data => .packet (packet ⟨0xC, data⟩)
  | .addrD data => .packet (packet ⟨0xD, data⟩)
  | .addrE data => .packet (packet ⟨0xE, data⟩)
  | .displaytest data => .packet (packet ⟨0xF, data⟩)
  | .csh => .pin PinEvent.csh.code
  | .csl => .pin PinEvent.csl.code
  | .ckh => .pin PinEvent.ckh.code
  | .ckl => .pin PinEvent.ckl.code
  | .dh => .pin PinEvent.dh.code
  | .dl => .pin PinEvent.dl.code

/-! The opcode table's words. -/

/-- How many payload words follow a command word: COUNT for an EXEC, else none (R76). -/
def payloadCount (w : CmdWord) : Nat := if bits w 31 28 = 6 then bits w 27 0 else 0

/-- The `k` port words whose bits `w` numbers, the first at bit 0. -/
def splitWords : Nat → Nat → List CmdWord
  | 0, _ => []
  | k + 1, w => BitVec.ofNat 32 w :: splitWords k (w / 2 ^ 32)

/-- The whole command that begins with the words of `w`: an EXEC's payload words above `nbits` are 0. -/
def tableCommand (nbits w : Nat) : List CmdWord :=
  let ws := splitWords (nbits / 32) w
  ws ++ List.replicate (1 + payloadCount (BitVec.ofNat 32 w) - ws.length) 0

/-- The instruction the decoder reads from an opcode-table word: 8 bits hold an F-PE code, 16 bits a packet, 32
bits (or a multiple) a command as it arrives at an idle command port. So a 32-bit word with OP = 0 reads as
ILLEGAL.OP0; the row EXEC.PAYLOAD has the same bits and is read only inside an EXEC (notes/assumptions/8.md). -/
def decodeTableWord (nbits w : Nat) : Option Instr :=
  let code : Option Code :=
    if 2 ^ nbits ≤ w then none
    else if nbits = 8 then (if w < 8 then some (.pin (BitVec.ofNat 3 w)) else none)
    else if nbits = 16 then some (.packet (BitVec.ofNat 16 w))
    else if 32 ≤ nbits then some (.command (tableCommand nbits w))
    else none
  match code with
  | some c => (decode c).toOption
  | none => none

end Sys2Proof
end

