-- ==== Sys2Proof/Machine/State.lean ====
section
/-! DEFINITION. The machine's state as plain data, the reasons a step can stop, and the state after reset.
The three agents of rule R232 and the chips of the reception model (R181) are all held here. -/

namespace Sys2Proof.Machine

/-- The configuration registers (R21): the construction arguments, constant after construction. -/
structure Cfg where
  /-- CFG.DR, LED rows per display, 1..8 -/
  dr : Nat
  /-- CFG.DC, LED columns per display, 1..8 -/
  dc : Nat
  /-- CFG.V, block rows of displays -/
  v : Nat
  /-- CFG.H, block columns of displays -/
  h : Nat
  /-- CFG.CHECKED, the bounds-checked variant -/
  checked : Bool
  /-- CFG.COORD_W, the constant 12 -/
  coordW : Nat
  deriving DecidableEq, Repr

/-- N = V·H, the number of displays (R6). -/
def Cfg.n (g : Cfg) : Nat := g.v * g.h

/-- The level of a line; `x` is the spec's "unknown", a line no event has driven since construction (R180). -/
inductive Level where
  | x | low | high
  deriving DecidableEq, Repr

/-- A command's response with what it records (R220, R227, R80). -/
inductive Response where
  /-- Status OK; the value is there only for a GETLED. -/
  | ok (value : Option Bool)
  /-- InvalidGeometry, raised by construction only (R222); records the arguments. -/
  | invalidGeometry (dr dc v h : Int)
  /-- InvalidBatch; records the batch length (R145). -/
  | invalidBatch (length : Nat)
  /-- OutOfRange; records the coordinate (R223). -/
  | outOfRange (row col : Int)
  /-- Unsupported; records the operand (R202). -/
  | unsupported (operand : BitVec 28)
  /-- IllegalCommand; records the command word (R203). -/
  | illegalCommand (word : CmdWord)
  deriving DecidableEq, Repr

/-- One LED-driver chip of the cascade, as far as the reception model describes it (R181, R31). -/
structure Chip where
  /-- S_j, the 16-bit shift register -/
  shift : PktWord
  /-- the word latched at ChipSelectHigh whose register write the chip has not yet performed -/
  latched : Option PktWord
  /-- Digit0..Digit7, addresses 0x1..0x8 -/
  digits : Vector Byte 8
  /-- DecodeMode, address 0x9 -/
  decodeMode : Byte
  /-- Intensity, address 0xA -/
  intensity : Byte
  /-- ScanLimit, address 0xB -/
  scanLimit : Byte
  /-- Shutdown, address 0xC -/
  shutdown : Byte
  /-- DisplayTest, address 0xF -/
  displayTest : Byte
  deriving DecidableEq, Repr

/-- The whole machine: the block (R20), its command port (R54), its output stream and the pin executor (R50,
R55, R233), the three lines (R180) and the chips (R181). -/
structure State where
  /-- the configuration registers (R21) -/
  cfg : Cfg
  /-- `cur[i]`, the current bitmap words (R22) -/
  cur : List DisplayWord
  /-- `prev[i]`, the previously transmitted words (R24) -/
  prev : List DisplayWord
  /-- the dirty flag (R25) -/
  dirty : Bool
  /-- the words that have arrived on the command port and are not yet taken, oldest first (R54) -/
  port : List CmdWord
  /-- the words of the EXEC whose payload is still arriving, its command word first; empty if none (R76) -/
  intake : List CmdWord
  /-- the pin-event output stream, as F-PE codes, from construction on (R50, R233) -/
  out : List PinCode
  /-- how many events of the stream the pin executor has replayed (R55) -/
  replayed : Nat
  /-- the finished command's response, not delivered until its events are replayed (R227) -/
  response : Option Response
  /-- the responses delivered so far (R239 (b)) -/
  responses : List Response
  /-- the chip-select line, LOADCS (R180) -/
  cs : Level
  /-- the clock line (R180) -/
  clk : Level
  /-- the data line DIN (R180) -/
  din : Level
  /-- the chips, chip 0 nearest the block (R58, R181) -/
  chips : List Chip
  /-- the model's own: the number of the next draw of a free value (notes/assumptions/5.md) -/
  freeIndex : Nat
  deriving DecidableEq, Repr

/-- Why the machine stops. The spec gives one ground: a code or packet it says is never produced (I9). -/
inductive Fault where
  /-- Raised by the fetch when the executor meets pin-event code 6 or 7 (R72, I9). Safe: the block never emits
  one, and the spec says to treat one as a fault. -/
  | reservedPinCode (code : PinCode)
  /-- Raised by the fetch when a chip is handed a packet with bits [15:12] not 0 (R71, R77 (f), I9). Safe: the
  block never emits one, and the spec says to treat one as a fault. -/
  | reservedPacketBits (word : PktWord)
  deriving DecidableEq, Repr

/-- Why an instruction has no meaning in this model. -/
inductive Refusal where
  /-- Raised by exec's arms for an instruction without a meaning; no arm raises it now. Safe. -/
  | notModelled (mnemonic : String)
  deriving DecidableEq, Repr

/-- A chip before anything was sent to it. DESIGN CHOICE (notes/assumptions/2.md, unsafe): the spec leaves a
chip's registers before the first RESET unspecified (R31, I7); the model names zero. -/
def Chip.powerUp : Chip :=
  { shift := 0, latched := none, digits := Vector.replicate 8 0, decodeMode := 0, intensity := 0,
    scanLimit := 0, shutdown := 0, displayTest := 0 }

/-- The construction state for given configuration registers (R250, R251, R31): bitmaps 0, dirty clear, nothing
emitted, every line level unknown. -/
def State.initial (g : Cfg) : State :=
  { cfg := g, cur := List.replicate g.n 0, prev := List.replicate g.n 0, dirty := false,
    port := [], intake := [], out := [], replayed := 0, response := none, responses := [],
    cs := .x, clk := .x, din := .x, chips := List.replicate g.n Chip.powerUp, freeIndex := 0 }

/-- The configuration registers of the instance `State.reset` (notes/assumptions/1.md). -/
def Cfg.reset : Cfg :=
  { dr := Config.resetDR, dc := Config.resetDC, v := Config.resetV, h := Config.resetH,
    checked := Config.resetChecked, coordW := Config.coordW }

/-- The machine right after construction, its only reset (R251, R252). -/
def State.reset : State := State.initial Cfg.reset

end Sys2Proof.Machine
end

