-- ==== Sys2Proof/Machine/Names.lean ====
section
/-! DEFINITION. The names of the register addresses and of the data values (R79, R100, R111 to R114). -/

namespace Sys2Proof.Machine

/-! The address table (R100). Addresses 0xD and 0xE have no name (R116). -/

def RegName.noOp : Nat := 0x0
/-- Digit0..Digit7 are the addresses 0x1..0x8. -/
def RegName.digit (r : Nat) : Nat := 0x1 + r
def RegName.decodeMode : Nat := 0x9
def RegName.intensity : Nat := 0xA
def RegName.scanLimit : Nat := 0xB
def RegName.shutdown : Nat := 0xC
def RegName.displayTest : Nat := 0xF

/-! DecodeMode (R111). -/

def DecodeMode.noDecode : Byte := 0x00
def DecodeMode.codeBFor0 : Byte := 0x01
def DecodeMode.codeBFor3to0 : Byte := 0x0F
def DecodeMode.codeBFor7to0 : Byte := 0xFF

/-! ScanLimit (R112). The names between the end points are the spec's reading of an elided range (D33). -/

def ScanLimit.digit0 : Byte := 0x00
def ScanLimit.digits0to1 : Byte := 0x01
def ScanLimit.digits0to2 : Byte := 0x02
def ScanLimit.digits0to3 : Byte := 0x03
def ScanLimit.digits0to4 : Byte := 0x04
def ScanLimit.digits0to5 : Byte := 0x05
def ScanLimit.digits0to6 : Byte := 0x06
/-- Also called AllDigits (C3). -/
def ScanLimit.digits0to7 : Byte := 0x07

/-! Shutdown (R113). -/

def Shutdown.shutdown : Byte := 0x00
def Shutdown.normalOperation : Byte := 0x01

/-! DisplayTest (R114): its NormalOperation is not Shutdown's. -/

def DisplayTest.normalOperation : Byte := 0x00
def DisplayTest.testMode : Byte := 0x01

end Sys2Proof.Machine
end

