-- ==== Sys2Proof/Machine/Operands.lean ====
section
/-! DEFINITION. The operand forms: coordinates (R57, R131), rows and register writes of a display (R23, R135),
and the legal geometries (R6, R222). -/

namespace Sys2Proof.Machine

/-- TR = V·DR, the total LED rows (R6). -/
def Cfg.tr (g : Cfg) : Nat := g.v * g.dr

/-- TC = H·DC, the total LED columns (R6). -/
def Cfg.tc (g : Cfg) : Nat := g.h * g.dc

/-- W = DR·DC, the significant bits of a display word (R6). -/
def Cfg.w (g : Cfg) : Nat := g.dr * g.dc

/-- The legal values of the configuration registers (R6, R21, R222). -/
def Cfg.legal (g : Cfg) : Bool :=
  decide (1 ≤ g.dr) && decide (g.dr ≤ 8) && decide (1 ≤ g.dc) && decide (g.dc ≤ 8) &&
  decide (1 ≤ g.v) && decide (1 ≤ g.h) && decide (g.coordW = Config.coordW) &&
  decide (g.tr ≤ 2 ^ Config.coordW) && decide (g.tc ≤ 2 ^ Config.coordW)

/-- InRange (R131): every negative coordinate is out of range. -/
def Cfg.inRange (g : Cfg) (row col : Int) : Bool :=
  decide (0 ≤ row) && decide (row < g.tr) && decide (0 ≤ col) && decide (col < g.tc)

/-- The display index of an in-range coordinate (R57). -/
def Cfg.displayOf (g : Cfg) (row col : Nat) : Nat := row / g.dr * g.h + col / g.dc

/-- The bit position of an in-range coordinate in its display's word (R57, R23). -/
def Cfg.bitOf (g : Cfg) (row col : Nat) : Nat := row % g.dr * g.dc + col % g.dc

/-- MASK(k) = (1 << k) - 1 (R9). -/
def mask (k : Nat) : DisplayWord := (1 : DisplayWord) <<< k - 1

/-- Row r of a display word: the field [r·DC + DC - 1 : r·DC] (R23). -/
def rowBits (dc r : Nat) (w : DisplayWord) : DisplayWord := (w >>> (r * dc)) &&& mask dc

/-- RowWrite: register Digit r, with the row's current pattern as data (R135). -/
def rowWrite (dc : Nat) (cur : DisplayWord) (r : Nat) : RegWrite :=
  ⟨RegName.digit r, (rowBits dc r cur).setWidth 8⟩

/-- The NoOp padding write (R101, R136). -/
def noopWrite : RegWrite := ⟨RegName.noOp, 0x00⟩

/-- `word` with bit b on or off, no other bit changed (R133). -/
def setBit (word : DisplayWord) (b : Nat) (on : Bool) : DisplayWord :=
  if on then word ||| (1 : DisplayWord) <<< b else word &&& ~~~((1 : DisplayWord) <<< b)

end Sys2Proof.Machine
end

