-- ==== Sys2Proof/Machine/Serializer.lean ====
section
/-! DEFINITION. The protocol serializer (42_serializer.md): a batch becomes a sequence of pin events. -/

namespace Sys2Proof.Machine

/-- The 16 bits of a packet, most-significant bit first (R171). -/
def packetBits (p : PktWord) : List Bool := (List.range 16).map (fun k => p.getLsbD (15 - k))

/-- The bit string a batch puts on the data line: the farthest display's packet first (R171). -/
def wireBits (batch : List RegWrite) : List Bool :=
  batch.reverse.flatMap (fun w => packetBits (packet w))

/-- The data-line event of a level (R178, R179). -/
def dataEvent (v : Bool) : PinEvent := if v then .dh else .dl

/-- The events of a bit string, where `last` is the data level emitted before it in this call: a data event
only where the level changes, a clock pulse for every bit (R172, R26). -/
def clockBits : Option Bool → List Bool → List PinEvent
  | _, [] => []
  | last, v :: vs =>
    if last = some v then .ckh :: .ckl :: clockBits (some v) vs
    else dataEvent v :: .ckh :: .ckl :: clockBits (some v) vs

/-- Serialize(batch) (R170): `last` is NONE at the start of every call (R26). -/
def serialize (batch : List RegWrite) : List PinEvent :=
  .csl :: (clockBits none (wireBits batch) ++ [.csh])

end Sys2Proof.Machine
end

