-- ==== Sys2Proof/Machine/Diff.lean ====
section
/-! DEFINITION. The diff engine's computation: which rows changed and which batches a draw sends (R134 to R136),
and RESET's initialization writes (R142). -/

namespace Sys2Proof.Machine

/-- Row r differs between the two words of a display (R134). -/
def rowChanged (dc : Nat) (cur prev : DisplayWord) (r : Nat) : Bool :=
  rowBits dc r (cur ^^^ prev) != 0

/-- ChangedRows (R134): the writes of the changed rows, the least-significant row first. -/
def changedRows (g : Cfg) (cur prev : DisplayWord) : List RegWrite :=
  ((List.range g.dr).filter (rowChanged g.dc cur prev)).map (rowWrite g.dc cur)

/-- The lists L[i] of all displays, from one state (R136). -/
def changeLists (s : State) : List (List RegWrite) := List.zipWith (changedRows s.cfg) s.cur s.prev

/-- stepCount, the longest list's length (R136). -/
def stepCount (ls : List (List RegWrite)) : Nat := (ls.map List.length).foldr max 0

/-- Batch k: each display's k-th changed-row write, or the NoOp padding write (R136). -/
def stepBatch (ls : List (List RegWrite)) (k : Nat) : List RegWrite :=
  ls.map (fun l => l.getD k noopWrite)

/-- The batches of a draw: k = 0 .. stepCount - 1 (R136, C5). -/
def drawBatches (s : State) : List (List RegWrite) :=
  (List.range (stepCount (changeLists s))).map (stepBatch (changeLists s))

/-- InitWrites, in the order RESET sends them (R142). -/
def initWrites : List RegWrite :=
  [⟨RegName.displayTest, DisplayTest.normalOperation⟩, ⟨RegName.decodeMode, DecodeMode.noDecode⟩,
    ⟨RegName.scanLimit, ScanLimit.digits0to7⟩, ⟨RegName.intensity, 0x00⟩,
    ⟨RegName.shutdown, Shutdown.normalOperation⟩]

/-- The sentinel RESET forces into `prev` (R24, D9). -/
def sentinel : DisplayWord := 0xFFFFFFFFFFFFFFFF

end Sys2Proof.Machine
end

