-- ==== Sys2Proof/Machine/Flags.lean ====
section
/-! DEFINITION. The one flag, `dirty` (R25), and the status codes and the word of a response (R220, R227). -/

namespace Sys2Proof.Machine

/-- Set `dirty`: an in-range SETLED, and RESET before its draw (R25). -/
def State.markDirty (s : State) : State := { s with dirty := true }

/-- Clear `dirty`: the end of a draw (R25). -/
def State.clearDirty (s : State) : State := { s with dirty := false }

/-- The status code (R220). -/
def Response.status : Response → Nat
  | .ok _ => 0
  | .invalidGeometry _ _ _ _ => 1
  | .invalidBatch _ => 2
  | .outOfRange _ _ => 3
  | .unsupported _ => 4
  | .illegalCommand _ => 5

/-- The value of a successful GETLED (R80, R227). -/
def Response.value : Response → Option Bool
  | .ok v => v
  | .invalidGeometry _ _ _ _ => none
  | .invalidBatch _ => none
  | .outOfRange _ _ => none
  | .unsupported _ => none
  | .illegalCommand _ => none

/-- The 32-bit response word: STATUS in [2:0], VALUE in [8], every other bit 0 (R227). -/
def Response.word (r : Response) : CmdWord :=
  BitVec.ofNat 32 ((if r.value = some true then 2 ^ 8 else 0) + r.status)

end Sys2Proof.Machine
end

