-- ==== Sys2Proof/Machine/Ops.lean ====
section
/-! DEFINITION. The named operations: the block's primitives (R10, R11), raising an error and delivering a
response, construction (R250), the lines (R180) and the chips of the reception model (R181). -/

namespace Sys2Proof.Machine

/-! The block. -/

/-- EmitAll: the events are appended to the output stream in order, as F-PE codes (R11, R55, R233). -/
def State.emitAll (s : State) (es : List PinEvent) : State :=
  { s with out := s.out ++ es.map PinEvent.code }

/-- Respond: the response is ready; it is delivered when the events are replayed (R11, R230). -/
def State.respond (s : State) (r : Response) : State := { s with response := some r }

/-- Taking an exception, the one operation every error uses (R221): nothing of the block is written, nothing is
emitted, and the error is the command's response. There is no handler and no vector (R220). -/
def State.raise (s : State) (r : Response) : State := s.respond r

/-- The end of every command, after an error too (R226, R230): the pending response goes to the host, and the
block can take the next command. There is no other return from an error. -/
def State.deliver (s : State) (r : Response) : State :=
  { s with response := none, responses := s.responses ++ [r] }

/-- `cur[i] <- v` (R10). -/
def State.setCur (s : State) (i : Nat) (v : DisplayWord) : State := { s with cur := s.cur.set i v }

/-- `prev[i] <- cur[i]` for every i (R137). -/
def State.copyCur (s : State) : State := { s with prev := s.cur }

/-- `cur[i] <- 0` and `prev[i] <-` the sentinel, for every i < N (R141). -/
def State.blank (s : State) : State :=
  { s with cur := List.replicate s.cfg.n 0, prev := List.replicate s.cfg.n sentinel }

/-- DrawBody (R137): the batches of the changed rows, then `prev <- cur` and `dirty <- 0`. -/
def State.drawBody (s : State) : State :=
  ((s.emitAll ((drawBatches s).flatMap serialize)).copyCur).clearDirty

/-- One batch with the same write for every display (R141, R144). -/
def State.sendToAll (s : State) (w : RegWrite) : State :=
  s.emitAll (serialize (List.replicate s.cfg.n w))

/-- One word of an EXEC's payload joins the words that have arrived (R76). -/
def State.takePayload (s : State) (w : CmdWord) : State := { s with intake := s.intake ++ [w] }

/-- Construct (R250): the construction state, or InvalidGeometry and no instance (R222). -/
def construct (dr dc v h : Int) (checked : Bool) : Except Response State :=
  if 1 ≤ dr ∧ dr ≤ 8 ∧ 1 ≤ dc ∧ dc ≤ 8 ∧ 1 ≤ v ∧ 1 ≤ h ∧
      v * dr ≤ 2 ^ Config.coordW ∧ h * dc ≤ 2 ^ Config.coordW then
    .ok (State.initial
      { dr := dr.toNat, dc := dc.toNat, v := v.toNat, h := h.toNat, checked := checked,
        coordW := Config.coordW })
  else .error (.invalidGeometry dr dc v h)

/-- The host puts one word on the command port (R234). The step never does this itself. -/
def State.send (s : State) (w : CmdWord) : State := { s with port := s.port ++ [w] }

/-! The lines and the cascade. -/

/-- A driven level. -/
def Level.ofBool (v : Bool) : Level := if v then .high else .low

/-- The level an event finds on a line: of a line nothing has driven, the free one (R180, I6). -/
def Level.found (l : Level) (free : Bool) : Bool :=
  match l with
  | .x => free
  | .low => false
  | .high => true

/-- Whether a clock change from `old` to `new` is the edge at which the chips sample, where `rise` says which edge
that is (R181, G2). -/
def sampleEdge (rise old new : Bool) : Bool := if rise then !old && new else old && !new

/-- One clock pulse of the chain: the first chip takes the data bit into bit 0, each later chip takes the bit 15 of
the chip before it, and every register shifts up by one (R181). -/
def shiftChain : Bool → List Chip → List Chip
  | _, [] => []
  | v, c :: cs => { c with shift := c.shift <<< 1 ||| (BitVec.ofBool v).setWidth 16 } :: shiftChain c.shift.msb cs

/-- The register write (S_j[11:8], S_j[7:0]) a chip latches; bits [15:12] take no part in it (R181). -/
def writeField (w : PktWord) : PktWord := w &&& 0x0FFF

/-- ChipSelectHigh's rising edge: every chip latches its word at once (R175, R181). -/
def latchAll (cs : List Chip) : List Chip :=
  cs.map (fun c => { c with latched := some (writeField c.shift) })

/-- The chip-select line goes to a level; on its rising edge all chips latch (R174, R175). -/
def State.driveCs (s : State) (v : Bool) : State :=
  { s with
    cs := Level.ofBool v
    chips := if !s.cs.found (Config.undrivenLevel s.freeIndex) && v then latchAll s.chips else s.chips
    freeIndex := s.freeIndex + 1 }

/-- The clock line goes to a level; at the sampling edge the chain shifts the data line in (R176, R177, R181). -/
def State.driveClk (s : State) (v : Bool) : State :=
  { s with
    clk := Level.ofBool v
    chips :=
      if sampleEdge Config.samplesOnRise (s.clk.found (Config.undrivenLevel s.freeIndex)) v then
        shiftChain (s.din.found (Config.undrivenLevel (s.freeIndex + 1))) s.chips
      else s.chips
    freeIndex := s.freeIndex + 2 }

/-- The data line goes to a level (R178, R179). -/
def State.driveDin (s : State) (v : Bool) : State := { s with din := Level.ofBool v }

/-! The chips' registers. -/

/-- The control registers of a chip (R110 to R115). -/
inductive ControlReg where
  | decodeMode | intensity | scanLimit | shutdown | displayTest
  deriving DecidableEq, Repr

/-- The register's address (R100). -/
def ControlReg.address : ControlReg → Nat
  | .decodeMode => RegName.decodeMode
  | .intensity => RegName.intensity
  | .scanLimit => RegName.scanLimit
  | .shutdown => RegName.shutdown
  | .displayTest => RegName.displayTest

/-- The value RESET writes, after which R31 states the chip's registers (R142). -/
def ControlReg.resetValue : ControlReg → Byte
  | .decodeMode => DecodeMode.noDecode
  | .intensity => 0x00
  | .scanLimit => ScanLimit.digits0to7
  | .shutdown => Shutdown.normalOperation
  | .displayTest => DisplayTest.normalOperation

/-- Whether the data has a name in the register's table (R111 to R115); Intensity has none. -/
def ControlReg.named : ControlReg → Byte → Bool
  | .decodeMode, d =>
    decide (d ∈ [DecodeMode.noDecode, DecodeMode.codeBFor0, DecodeMode.codeBFor3to0, DecodeMode.codeBFor7to0])
  | .intensity, _ => false
  | .scanLimit, d =>
    decide (d ∈ [ScanLimit.digit0, ScanLimit.digits0to1, ScanLimit.digits0to2, ScanLimit.digits0to3,
      ScanLimit.digits0to4, ScanLimit.digits0to5, ScanLimit.digits0to6, ScanLimit.digits0to7])
  | .shutdown, d => decide (d ∈ [Shutdown.shutdown, Shutdown.normalOperation])
  | .displayTest, d => decide (d ∈ [DisplayTest.normalOperation, DisplayTest.testMode])

/-- What a control register of the chip holds. -/
def Chip.control (c : Chip) : ControlReg → Byte
  | .decodeMode => c.decodeMode
  | .intensity => c.intensity
  | .scanLimit => c.scanLimit
  | .shutdown => c.shutdown
  | .displayTest => c.displayTest

/-- The chip with one control register written. -/
def Chip.setControl (c : Chip) (r : ControlReg) (d : Byte) : Chip :=
  match r with
  | .decodeMode => { c with decodeMode := d }
  | .intensity => { c with intensity := d }
  | .scanLimit => { c with scanLimit := d }
  | .shutdown => { c with shutdown := d }
  | .displayTest => { c with displayTest := d }

/-- The chip with Digit r written (R102 to R109). -/
def Chip.setDigit (c : Chip) (r : Nat) (d : Byte) : Chip :=
  { c with digits := c.digits.setIfInBounds r d }

/-- The chip with every control register at a free value: the effect of the write is not in the spec (I5). The Digit
registers keep their rows, because only a write to a Digit register disturbs them (R147). -/
def Chip.freeControls (k : Nat) (c : Chip) : Chip :=
  { c with
    decodeMode := Config.chipByte k RegName.decodeMode
    intensity := Config.chipByte k RegName.intensity
    scanLimit := Config.chipByte k RegName.scanLimit
    shutdown := Config.chipByte k RegName.shutdown
    displayTest := Config.chipByte k RegName.displayTest }

/-- A control-register write as far as the spec states its effect (notes/assumptions/6.md): the value RESET writes is
stored and changes nothing else (R31); another named value is stored, and what it does to the other control
registers is free (N3, I5); of an unnamed value the whole effect is free (I5). -/
def Chip.controlWrite (r : ControlReg) (d : Byte) (k : Nat) (c : Chip) : Chip :=
  if d = r.resetValue then c.setControl r d
  else if r.named d then (c.freeControls k).setControl r d
  else c.freeControls k

/-- The word of the first chip that has latched one and not yet performed it. -/
def latchedWord : List Chip → Option PktWord
  | [] => none
  | c :: cs =>
    match c.latched with
    | some w => some w
    | none => latchedWord cs

/-- The first chip that holds a latched word performs its register write, and the word is done with. -/
def performFirst (f : Chip → Chip) : List Chip → List Chip
  | [] => []
  | c :: cs =>
    match c.latched with
    | some _ => { f c with latched := none } :: cs
    | none => c :: performFirst f cs

/-- A latched packet is performed by its chip (R181). A packet no chip has latched changes nothing: a chip acts only
on what it latched (notes/assumptions/9.md). -/
def State.perform (s : State) (f : Nat → Chip → Chip) : State :=
  match latchedWord s.chips with
  | some _ => { s with chips := performFirst (f s.freeIndex) s.chips, freeIndex := s.freeIndex + 1 }
  | none => s

end Sys2Proof.Machine
end

