-- ==== Sys2Proof/Machine/Accessors.lean ====
section
/-! DEFINITION. The cell accessors SETLED and GETLED (41_grid_diff.md section 2, 43_facade.md R200). -/

namespace Sys2Proof.Machine

/-- The display index of a coordinate operand, in range (R57). -/
def State.displayAt (s : State) (row col : Int) : Nat := s.cfg.displayOf row.toNat col.toNat

/-- The bit position of a coordinate operand, in range (R57). -/
def State.bitAt (s : State) (row col : Int) : Nat := s.cfg.bitOf row.toNat col.toNat

/-- The state of an LED in range (R132). -/
def State.led (s : State) (row col : Int) : Bool :=
  (s.cur.getD (s.displayAt row col) 0).getLsbD (s.bitAt row col)

/-- SETLED (R133): out of range it raises OutOfRange in the checked variant and does nothing in the unchecked one;
in range it writes the one bit and sets `dirty`. -/
def execSetled (row col : Int) (on : Bool) (s : State) : Host.Outcome State Fault Refusal :=
  if s.cfg.inRange row col then
    let i := s.displayAt row col
    .next (((s.setCur i (setBit (s.cur.getD i 0) (s.bitAt row col) on)).markDirty).respond (.ok none))
  else if s.cfg.checked then .next (s.raise (.outOfRange row col))
  else .next (s.respond (.ok none))

/-- GETLED (R132): out of range it raises OutOfRange in the checked variant and answers false in the unchecked one
(D6); in range it answers the bit of `cur`. -/
def execGetled (row col : Int) (s : State) : Host.Outcome State Fault Refusal :=
  if s.cfg.inRange row col then .next (s.respond (.ok (some (s.led row col))))
  else if s.cfg.checked then .next (s.raise (.outOfRange row col))
  else .next (s.respond (.ok (some false)))

end Sys2Proof.Machine
end

