-- ==== Sys2Proof/Machine/Facade.lean ====
section
/-! DEFINITION. The unsupported and the illegal commands (43_facade.md R202, R203). -/

namespace Sys2Proof.Machine

/-- NUMERIC (R202): Unsupported, always; no rule reads the operand. -/
def execNumeric (operand : BitVec 28) (s : State) : Host.Outcome State Fault Refusal :=
  .next (s.raise (.unsupported operand))

/-- ILLEGAL.OP0 (R203): IllegalCommand with the command word, whose OP is 0. -/
def execIllegalOp0 (operand : BitVec 28) (s : State) : Host.Outcome State Fault Refusal :=
  .next (s.raise (.illegalCommand (commandWord 0 operand.toNat)))

/-- ILLEGAL.OP8_F (R203): IllegalCommand with the command word, whose bit 31 is 1. -/
def execIllegalOp8F (operand : BitVec 31) (s : State) : Host.Outcome State Fault Refusal :=
  .next (s.raise (.illegalCommand (BitVec.ofNat 32 (2 ^ 31 + operand.toNat))))

end Sys2Proof.Machine
end

