-- ==== Sys2Proof/Machine/Grid.lean ====
section
/-! DEFINITION. The commands of the diff engine: DRAW and RESET (41_grid_diff.md sections 3 and 4). -/

namespace Sys2Proof.Machine

/-- DRAW (R137): nothing if `dirty` is clear, else DrawBody. -/
def execDraw (s : State) : Host.Outcome State Fault Refusal :=
  if s.dirty then .next (s.drawBody.respond (.ok none)) else .next (s.respond (.ok none))

/-- RESET (R141): the five initialization batches, `cur` cleared and `prev` at the sentinel, then the full draw. -/
def execReset (s : State) : Host.Outcome State Fault Refusal :=
  .next (((initWrites.foldl State.sendToAll s).blank.markDirty).drawBody.respond (.ok none))

end Sys2Proof.Machine
end

