-- ==== Sys2Proof/Machine/Packets.lean ====
section
/-! DEFINITION. The packets (40_register_model.md): the register write of the chip that latched the packet. -/

namespace Sys2Proof.Machine

/-- NOOP (R101): with data 0x00 the chip ignores it; with any other data its effect is not in the spec, so the chip's
control registers hold free values (N5, I5). -/
def execNoop (data : Byte) (s : State) : Host.Outcome State Fault Refusal :=
  if data = 0 then .next (s.perform (fun _ c => c)) else .next (s.perform Chip.freeControls)

/-- DIGIT0 (R102): the chip holds the byte as row 0's pattern. -/
def execDigit0 (data : Byte) (s : State) : Host.Outcome State Fault Refusal :=
  .next (s.perform (fun _ c => c.setDigit 0 data))

/-- DIGIT1 (R103): the chip holds the byte as row 1's pattern. -/
def execDigit1 (data : Byte) (s : State) : Host.Outcome State Fault Refusal :=
  .next (s.perform (fun _ c => c.setDigit 1 data))

/-- DIGIT2 (R104): the chip holds the byte as row 2's pattern. -/
def execDigit2 (data : Byte) (s : State) : Host.Outcome State Fault Refusal :=
  .next (s.perform (fun _ c => c.setDigit 2 data))

/-- DIGIT3 (R105): the chip holds the byte as row 3's pattern. -/
def execDigit3 (data : Byte) (s : State) : Host.Outcome State Fault Refusal :=
  .next (s.perform (fun _ c => c.setDigit 3 data))

/-- DIGIT4 (R106): the chip holds the byte as row 4's pattern. -/
def execDigit4 (data : Byte) (s : State) : Host.Outcome State Fault Refusal :=
  .next (s.perform (fun _ c => c.setDigit 4 data))

/-- DIGIT5 (R107): the chip holds the byte as row 5's pattern. -/
def execDigit5 (data : Byte) (s : State) : Host.Outcome State Fault Refusal :=
  .next (s.perform (fun _ c => c.setDigit 5 data))

/-- DIGIT6 (R108): the chip holds the byte as row 6's pattern. -/
def execDigit6 (data : Byte) (s : State) : Host.Outcome State Fault Refusal :=
  .next (s.perform (fun _ c => c.setDigit 6 data))

/-- DIGIT7 (R109): the chip holds the byte as row 7's pattern. -/
def execDigit7 (data : Byte) (s : State) : Host.Outcome State Fault Refusal :=
  .next (s.perform (fun _ c => c.setDigit 7 data))

/-- DECODEMODE (R110, R111): a control-register write; the named values are those of R111. -/
def execDecodemode (data : Byte) (s : State) : Host.Outcome State Fault Refusal :=
  .next (s.perform (Chip.controlWrite .decodeMode data))

/-- INTENSITY (R115): a control-register write; only the value 0x00 of RESET has a stated effect. -/
def execIntensity (data : Byte) (s : State) : Host.Outcome State Fault Refusal :=
  .next (s.perform (Chip.controlWrite .intensity data))

/-- SCANLIMIT (R112): a control-register write; the named values are 0x00 to 0x07. -/
def execScanlimit (data : Byte) (s : State) : Host.Outcome State Fault Refusal :=
  .next (s.perform (Chip.controlWrite .scanLimit data))

/-- SHUTDOWN (R113): a control-register write; the named values are 0x00 and 0x01. -/
def execShutdown (data : Byte) (s : State) : Host.Outcome State Fault Refusal :=
  .next (s.perform (Chip.controlWrite .shutdown data))

/-- ADDR_D (R116): the address has no name and the chip effect is not in the spec, so the chip's control registers
hold free values (N4, I5). -/
def execAddrD (_data : Byte) (s : State) : Host.Outcome State Fault Refusal :=
  .next (s.perform Chip.freeControls)

/-- ADDR_E (R116): the address has no name and the chip effect is not in the spec, so the chip's control registers
hold free values (N4, I5). -/
def execAddrE (_data : Byte) (s : State) : Host.Outcome State Fault Refusal :=
  .next (s.perform Chip.freeControls)

/-- DISPLAYTEST (R114): a control-register write; the named values are 0x00 and 0x01. -/
def execDisplaytest (data : Byte) (s : State) : Host.Outcome State Fault Refusal :=
  .next (s.perform (Chip.controlWrite .displayTest data))

end Sys2Proof.Machine
end

