-- ==== Sys2Proof/Machine/PinEvents.lean ====
section
/-! DEFINITION. The pin events as the pin executor replays them (42_serializer.md section 2): each drives its own line
to its own level (R72, R180). -/

namespace Sys2Proof.Machine

/-- CSH (R175): chip-select goes to 1, and its rising edge latches all chips. -/
def execCsh (s : State) : Host.Outcome State Fault Refusal := .next (s.driveCs true)

/-- CSL (R174): chip-select goes to 0. -/
def execCsl (s : State) : Host.Outcome State Fault Refusal := .next (s.driveCs false)

/-- CKH (R176): the clock line goes to 1. -/
def execCkh (s : State) : Host.Outcome State Fault Refusal := .next (s.driveClk true)

/-- CKL (R177): the clock line goes to 0. -/
def execCkl (s : State) : Host.Outcome State Fault Refusal := .next (s.driveClk false)

/-- DH (R178): the data line goes to 1. -/
def execDh (s : State) : Host.Outcome State Fault Refusal := .next (s.driveDin true)

/-- DL (R179): the data line goes to 0. -/
def execDl (s : State) : Host.Outcome State Fault Refusal := .next (s.driveDin false)

end Sys2Proof.Machine
end

