-- ==== Sys2Proof/Machine/Raw.lean ====
section
/-! DEFINITION. The raw register paths EXECALL and EXEC, with the EXEC payload word (41_grid_diff.md section 5). -/

namespace Sys2Proof.Machine

/-- EXECALL (R144): one batch of N copies of the write; address and data are not checked (R117). -/
def execExecall (addr : Nat) (data : Byte) (s : State) : Host.Outcome State Fault Refusal :=
  .next ((s.sendToAll ⟨addr, data⟩).respond (.ok none))

/-- EXEC (R145): InvalidBatch unless the batch holds one write per display, else that batch. -/
def execExec (batch : List RegWrite) (s : State) : Host.Outcome State Fault Refusal :=
  if batch.length = s.cfg.n then .next ((s.emitAll (serialize batch)).respond (.ok none))
  else .next (s.raise (.invalidBatch batch.length))

/-- EXEC.PAYLOAD (R74, R76): the word joins the EXEC whose payload is arriving. With no EXEC arriving the same 32
bits are a command word with OP = 0, an IllegalCommand (R77 (a), R203; notes/assumptions/8.md). -/
def execExecPayload (addr : Nat) (data : Byte) (s : State) : Host.Outcome State Fault Refusal :=
  if s.intake.isEmpty then .next (s.raise (.illegalCommand (encodePayload ⟨addr, data⟩)))
  else .next (s.takePayload (encodePayload ⟨addr, data⟩))

end Sys2Proof.Machine
end

