-- ==== Sys2Proof/Machine/Dispatch.lean ====
section
/-! DEFINITION. The dispatch: one arm per instruction, each one call of its meaning. -/

namespace Sys2Proof.Machine

/-- One instruction's effect on the state it runs in. -/
def exec (i : Instr) (s : State) : Host.Outcome State Fault Refusal :=
  match i with
  | .setled row col on => Sys2Proof.Machine.execSetled row col on s
  | .getled row col => Sys2Proof.Machine.execGetled row col s
  | .draw => Sys2Proof.Machine.execDraw s
  | .reset => Sys2Proof.Machine.execReset s
  | .execall addr data => Sys2Proof.Machine.execExecall addr data s
  | .exec batch => Sys2Proof.Machine.execExec batch s
  | .execPayload addr data => Sys2Proof.Machine.execExecPayload addr data s
  | .numeric operand => Sys2Proof.Machine.execNumeric operand s
  | .illegalOp0 operand => Sys2Proof.Machine.execIllegalOp0 operand s
  | .illegalOp8F operand => Sys2Proof.Machine.execIllegalOp8F operand s
  | .noop data => Sys2Proof.Machine.execNoop data s
  | .digit0 data => Sys2Proof.Machine.execDigit0 data s
  | .digit1 data => Sys2Proof.Machine.execDigit1 data s
  | .digit2 data => Sys2Proof.Machine.execDigit2 data s
  | .digit3 data => Sys2Proof.Machine.execDigit3 data s
  | .digit4 data => Sys2Proof.Machine.execDigit4 data s
  | .digit5 data => Sys2Proof.Machine.execDigit5 data s
  | .digit6 data => Sys2Proof.Machine.execDigit6 data s
  | .digit7 data => Sys2Proof.Machine.execDigit7 data s
  | .decodemode data => Sys2Proof.Machine.execDecodemode data s
  | .intensity data => Sys2Proof.Machine.execIntensity data s
  | .scanlimit data => Sys2Proof.Machine.execScanlimit data s
  | .shutdown data => Sys2Proof.Machine.execShutdown data s
  | .addrD data => Sys2Proof.Machine.execAddrD data s
  | .addrE data => Sys2Proof.Machine.execAddrE data s
  | .displaytest data => Sys2Proof.Machine.execDisplaytest data s
  | .csh => Sys2Proof.Machine.execCsh s
  | .csl => Sys2Proof.Machine.execCsl s
  | .ckh => Sys2Proof.Machine.execCkh s
  | .ckl => Sys2Proof.Machine.execCkl s
  | .dh => Sys2Proof.Machine.execDh s
  | .dl => Sys2Proof.Machine.execDl s

end Sys2Proof.Machine
end

