-- ==== Sys2Proof/Machine/Fetch.lean ====
section
/-! DEFINITION. What the machine does next (R54, R55, R266): the chips perform what they latched; then the executor
replays the output stream; then the finished command's response is delivered; then the block takes the next word
of the command port. Only with all of these done is the block idle. -/

namespace Sys2Proof.Machine

/-- What the fetch found. -/
inductive Fetched where
  /-- an instruction, and the state it runs in -/
  | run (i : Instr) (s : State)
  /-- a step that runs no instruction -/
  | go (s : State)
  /-- the machine stops -/
  | stop (f : Fault)
  deriving DecidableEq, Repr

/-- A chip performs the packet it latched (R181). -/
def fetchPacket (w : PktWord) (s : State) : Fetched :=
  match decodePacket w with
  | .ok i => .run i s
  | .error _ => .stop (.reservedPacketBits w)

/-- The pin executor replays the event at its position of the stream (R55, R233). -/
def fetchPin (c : PinCode) (s : State) : Fetched :=
  match decodePin c with
  | .ok i => .run i { s with replayed := s.replayed + 1 }
  | .error _ => .stop (.reservedPinCode c)

/-- The block takes one word from the port while an EXEC's payload is arriving, or waits for it (R76). A word with a
reserved bit set is consumed too; it is refused when all have arrived (R77 (c)). -/
def fetchPayload (s : State) : Fetched :=
  match s.port with
  | [] => .go s
  | w :: rest =>
    match decodePayload w with
    | some d => .run (.execPayload d.addr d.data) { s with port := rest }
    | none => .go (State.takePayload { s with port := rest } w)

/-- The command whose words have arrived, the first of them `w`: it runs, or it is illegal (R203), or it is an EXEC
whose payload is still to come (R76). -/
def fetchCommand (w : CmdWord) (rest : List CmdWord) (s : State) : Fetched :=
  match decodeCommand (w :: rest) with
  | .ok (i, more) => .run i { s with intake := [], port := more ++ s.port }
  | .error .incomplete => if s.intake.isEmpty then .go { s with intake := [w] } else fetchPayload s
  | .error _ => .go (State.raise { s with intake := [] } (.illegalCommand w))

/-- The block's turn: the command that is arriving, or the next word of the port, or nothing to do (R54, R238). -/
def fetchBlock (s : State) : Fetched :=
  match s.intake with
  | w :: ws => fetchCommand w ws s
  | [] =>
    match s.port with
    | w :: rest => fetchCommand w [] { s with port := rest }
    | [] => .go s

/-- The next step of the machine. -/
def fetch (s : State) : Fetched :=
  match latchedWord s.chips with
  | some w => fetchPacket w s
  | none =>
    match s.out[s.replayed]? with
    | some c => fetchPin c s
    | none =>
      match s.response with
      | some r => .go (s.deliver r)
      | none => fetchBlock s

/-! Placing an instruction where the next fetch finds it (notes/assumptions/3.md). -/

/-- Every chip's latch emptied, so that no chip performs before the placed instruction. -/
def clearLatches (cs : List Chip) : List Chip := cs.map (fun c => { c with latched := none })

/-- The given word latched by chip 0, and by no other chip. -/
def placePacket (w : PktWord) (s : State) : State :=
  { s with
    chips :=
      match clearLatches s.chips with
      | [] => []
      | c :: cs => { c with latched := some w } :: cs }

/-- The given code as the next event of the stream, everything before it replayed. -/
def placePin (c : PinCode) (s : State) : State :=
  { s with chips := clearLatches s.chips, out := s.out ++ [c], replayed := s.out.length }

/-- The given words as a command that has just arrived whole, the block's turn. -/
def placeCommand (ws : List CmdWord) (s : State) : State :=
  { s with chips := clearLatches s.chips, replayed := s.out.length, response := none, intake := ws }

/-- The instruction of an opcode-table word, placed as its format says (as `decodeTableWord` reads it). -/
def placeTableWord (nbits w : Nat) (s : State) : State :=
  if nbits = 8 then placePin (BitVec.ofNat 3 w) s
  else if nbits = 16 then placePacket (BitVec.ofNat 16 w) s
  else placeCommand (tableCommand nbits w) s

end Sys2Proof.Machine
end

