-- ==== Sys2Proof/Machine/Step.lean ====
section
/-! DEFINITION. One step of the machine. -/

namespace Sys2Proof.Machine

/-- One step: an instruction of the block, the executor or a chip, or a step that runs none. -/
def step (s : State) : Host.Outcome State Fault Refusal :=
  match fetch s with
  | .run i t => exec i t
  | .go t => .next t
  | .stop f => .fault f

/-- The state in which the very next step runs the instruction of an opcode-table word. It stands for the outside
world handing the word to its agent: the host to the block, the block to the executor, the cascade to chip 0
(notes/assumptions/3.md). -/
def State.withFetchWord (s : State) (nbits w : Nat) : State := placeTableWord nbits w s

end Sys2Proof.Machine
end

