-- ==== Sys2Proof/Safety.lean ====
section
/-! DEFINITION. What counts as a sound state, a safe step and the observation of a run. -/

namespace Sys2Proof.Machine

/-- The invariant: a legal geometry (R21), one word and one chip per display (R20), the clauses (a), (b), (c) of rule
R30, an output stream of defined pin events replayed no further than its end (R72, R55), and latched words whose
bits [15:12] are 0 (R71, R181). -/
structure State.Inv (s : State) : Prop where
  legal : s.cfg.legal = true
  curLength : s.cur.length = s.cfg.n
  prevLength : s.prev.length = s.cfg.n
  chipsLength : s.chips.length = s.cfg.n
  curHigh : ∀ w ∈ s.cur, w.toNat < 2 ^ s.cfg.w
  prevHigh : ∀ w ∈ s.prev, w.toNat < 2 ^ s.cfg.w
  cleanDrawn : s.dirty = false → s.cur = s.prev
  replayedBound : s.replayed ≤ s.out.length
  codesDefined : ∀ c ∈ s.out, c.toNat < 6
  latchedDefined : ∀ c ∈ s.chips, ∀ w, c.latched = some w → w.toNat < 2 ^ 12

/-- A safe outcome: the machine goes on. -/
def Goes (o : Host.Outcome State Fault Refusal) : Prop := ∃ t, o = .next t

/-- A list of instructions run one after the other, with no step between them; nothing where one stops. -/
def execAll : List Instr → State → Option State
  | [], s => some s
  | i :: is, s =>
    match exec i s with
    | .next t => execAll is t
    | .fault _ => none
    | .refused _ => none

/-- k steps of the machine; nothing where one stops. -/
def stepN : Nat → State → Option State
  | 0, s => some s
  | k + 1, s =>
    match step s with
    | .next t => stepN k t
    | .fault _ => none
    | .refused _ => none

/-- The level of the data line at each clock pulse of a sequence of pin events, from a level before it (R171, R180). -/
def dataAtPulses : Bool → List PinEvent → List Bool
  | _, [] => []
  | v, e :: es =>
    match e with
    | .dh => dataAtPulses true es
    | .dl => dataAtPulses false es
    | .ckh => v :: dataAtPulses v es
    | .csh => dataAtPulses v es
    | .csl => dataAtPulses v es
    | .ckl => dataAtPulses v es

/-- The block is free for its next word: no chip has a write to perform, the stream is replayed, no response waits
(R54, R55). -/
def State.blockTurn (s : State) : Prop :=
  latchedWord s.chips = none ∧ s.out[s.replayed]? = none ∧ s.response = none

/-- The observation of a run (R239): the final bitmaps and flag, the responses, the pin events. -/
structure Observation where
  cur : List DisplayWord
  prev : List DisplayWord
  dirty : Bool
  responses : List Response
  events : List PinCode
  deriving DecidableEq, Repr

/-- What a run ending in this state shows (R239). -/
def State.observation (s : State) : Observation :=
  { cur := s.cur, prev := s.prev, dirty := s.dirty, responses := s.responses, events := s.out }

end Sys2Proof.Machine
end

