-- ==== Sys2Proof/Certificates/Slice0/Obligations.lean ====
section
/-! DEFINITION. The statements for the provers. -/

open Sys2Proof Sys2Proof.Machine

/-! Encodings. -/

/-- Every instruction whose operands fit their fields is read back from its encoding, with every operand (R71 to R76). -/
def Obligations.DecodeOfEncodeIsIdentity : Prop :=
  ∀ i : Instr, i.wf = true → decode (encode i) = .ok i

/-- Every code that decodes is the encoding of what it decodes to, and its operands fit: no bit of an instruction word
is ignored (R77). -/
def Obligations.EncodeOfDecodeIsIdentity : Prop :=
  ∀ (c : Code) (i : Instr), decode c = .ok i → i.wf = true ∧ encode i = c

/-- A command is its command word and, for an EXEC, the next COUNT words; it is incomplete exactly while fewer have
arrived (R76). -/
def Obligations.CommandTakesItsPayloadWordsOnly : Prop :=
  (∀ (w : CmdWord) (rest : List CmdWord) (i : Instr) (more : List CmdWord),
    decodeCommand (w :: rest) = .ok (i, more) →
      payloadCount w ≤ rest.length ∧ more = rest.drop (payloadCount w)) ∧
  (∀ (w : CmdWord) (rest : List CmdWord),
    decodeCommand (w :: rest) = .error .incomplete ↔ rest.length < payloadCount w)

/-- The reserved bits of each command word, as R77 (b) lists them: one of them set makes the word no instruction. -/
def Obligations.SetReservedBitsAreRejected : Prop :=
  ∀ (w : CmdWord) (rest : List CmdWord),
    (w >>> 28 = 1 ∧ w &&& 0x0E000000 ≠ 0) ∨ (w >>> 28 = 2 ∧ w &&& 0x0F000000 ≠ 0) ∨
    (w >>> 28 = 3 ∧ w &&& 0x0FFFFFFF ≠ 0) ∨ (w >>> 28 = 4 ∧ w &&& 0x0FFFFFFF ≠ 0) ∨
    (w >>> 28 = 5 ∧ w &&& 0x0FFF0000 ≠ 0) →
    decodeCommand (w :: rest) = .error (.reservedBits w)

/-- Words written out from the encoding tables decode to the instructions they stand for (T-ENC, T-PKT, T-PE). -/
def Obligations.SampleWordsDecode : Prop :=
  decode (.command [0x1000F00F]) = .ok (.setled 15 15 false) ∧
  decode (.command [0x20008000]) = .ok (.getled 8 0) ∧
  decode (.command [0x50001D00]) = .ok (.execall 0x1D 0x00) ∧
  decode (.command [0x60000002, 0x00000101, 0x00000000]) = .ok (.exec [⟨0x1, 0x01⟩, ⟨0x0, 0x00⟩]) ∧
  decode (.payload 0x00000101) = .ok (.execPayload 0x1 0x01) ∧
  decode (.packet 0x0B07) = .ok (.scanlimit 0x07) ∧
  decode (.pin 5) = .ok .dl

/-- The packet of a register write: bits [15:12] are 0, [11:8] the low 4 bits of the address, [7:0] the data (R71). -/
def Obligations.PacketCarriesMaskedAddressAndData : Prop :=
  ∀ (a : Nat) (d : Byte),
    packet ⟨a, d⟩ >>> 12 = 0 ∧ ((packet ⟨a, d⟩ >>> 8) &&& 0xF).toNat = a % 16 ∧ (packet ⟨a, d⟩).setWidth 8 = d

/-- The address a packet carries selects its register, for every address and every data byte (R81, R100). -/
def Obligations.PacketAddressSelectsItsRegister : Prop :=
  ∀ (a : Nat) (d : Byte) (i : Instr),
    [Instr.noop d, .digit0 d, .digit1 d, .digit2 d, .digit3 d, .digit4 d, .digit5 d, .digit6 d, .digit7 d,
      .decodemode d, .intensity d, .scanlimit d, .shutdown d, .addrD d, .addrE d, .displaytest d][a % 16]? = some i →
    decodePacket (packet ⟨a, d⟩) = .ok i

/-! The cell accessors. -/

/-- The coordinate mapping of R57: its range test, its formulas, and that it is a bijection from the in-range
coordinates to the pairs of a display index below N and a bit position below W. -/
def Obligations.CoordinateMapIsABijection : Prop :=
  ∀ g : Cfg, g.legal = true →
    (∀ row col : Int, g.inRange row col = true ↔
      0 ≤ row ∧ row < (g.v * g.dr : Nat) ∧ 0 ≤ col ∧ col < (g.h * g.dc : Nat)) ∧
    (∀ row col : Nat, g.displayOf row col = (row / g.dr) * g.h + col / g.dc ∧
      g.bitOf row col = (row % g.dr) * g.dc + col % g.dc) ∧
    (∀ row col : Nat, g.inRange row col = true →
      g.displayOf row col < g.v * g.h ∧ g.bitOf row col < g.dr * g.dc) ∧
    (∀ row col row' col' : Nat, g.inRange row col = true → g.inRange row' col' = true →
      g.displayOf row col = g.displayOf row' col' → g.bitOf row col = g.bitOf row' col' → row = row' ∧ col = col') ∧
    (∀ i b : Nat, i < g.v * g.h → b < g.dr * g.dc →
      ∃ row col : Nat, g.inRange row col = true ∧ g.displayOf row col = i ∧ g.bitOf row col = b)

/-- SETLED in range writes exactly the one bit, sets `dirty`, answers OK, and changes nothing else (R133). -/
def Obligations.SetledInRangeWritesOneLed : Prop :=
  ∀ (s : State) (row col : Int) (on : Bool), s.Inv → s.cfg.inRange row col = true →
    ∃ t, exec (.setled row col on) s = .next t ∧
      t = { s with cur := t.cur, dirty := true, response := some (.ok none) } ∧
      t.cur.length = s.cur.length ∧
      ∀ i b : Nat, (t.cur.getD i 0).getLsbD b =
        if i = (row.toNat / s.cfg.dr) * s.cfg.h + col.toNat / s.cfg.dc ∧
            b = (row.toNat % s.cfg.dr) * s.cfg.dc + col.toNat % s.cfg.dc then on
        else (s.cur.getD i 0).getLsbD b

/-- GETLED in range answers the LED's bit of `cur` and changes nothing else (R132). -/
def Obligations.GetledInRangeReadsTheLed : Prop :=
  ∀ (s : State) (row col : Int), s.Inv → s.cfg.inRange row col = true →
    ∃ w, s.cur[(row.toNat / s.cfg.dr) * s.cfg.h + col.toNat / s.cfg.dc]? = some w ∧
      exec (.getled row col) s = .next { s with
        response := some (.ok (some (w.getLsbD ((row.toNat % s.cfg.dr) * s.cfg.dc + col.toNat % s.cfg.dc)))) }

/-- Out of range, negative coordinates included, the checked variant raises OutOfRange with the coordinate; the
unchecked one ignores a SETLED and answers false to a GETLED; nothing else changes (R132, R133, R223). -/
def Obligations.AccessorsOutOfRange : Prop :=
  ∀ (s : State) (row col : Int) (on : Bool),
    row < 0 ∨ (s.cfg.v * s.cfg.dr : Nat) ≤ row ∨ col < 0 ∨ (s.cfg.h * s.cfg.dc : Nat) ≤ col →
    exec (.setled row col on) s = .next { s with
      response := some (if s.cfg.checked then .outOfRange row col else .ok none) } ∧
    exec (.getled row col) s = .next { s with
      response := some (if s.cfg.checked then .outOfRange row col else .ok (some false)) }

/-- A GETLED reads what the last SETLED of its coordinate wrote, with any instructions between them but a SETLED of that
coordinate and a RESET (R140). -/
def Obligations.ReadAfterWrite : Prop :=
  ∀ (s : State) (row col : Int) (on : Bool) (is : List Instr), s.Inv → s.cfg.inRange row col = true →
    (∀ i ∈ is, i ≠ .reset ∧ ∀ on', i ≠ .setled row col on') →
    ∃ t, execAll (.setled row col on :: (is ++ [.getled row col])) s = some t ∧ t.response = some (.ok (some on))

/-! The diff engine. -/

/-- The write of row r: register Digit r, and column c of the row in data bit c, the bits from DC up being 0 (R135). -/
def Obligations.RowWriteCarriesTheCurrentRow : Prop :=
  ∀ (dc r c : Nat) (cur : DisplayWord), 1 ≤ dc → dc ≤ 8 → r < 8 → c < 8 →
    (rowWrite dc cur r).addr = 0x1 + r ∧
    (rowWrite dc cur r).data.getLsbD c = (decide (c < dc) && cur.getLsbD (r * dc + c))

/-- ChangedRows holds the write of a row exactly if a bit of the row differs; its rows rise strictly and are at most
DR (R134). -/
def Obligations.ChangedRowsAreTheDifferingRows : Prop :=
  ∀ (g : Cfg) (cur prev : DisplayWord), g.legal = true →
    (∀ w, w ∈ changedRows g cur prev ↔
      ∃ r < g.dr, w = rowWrite g.dc cur r ∧
        ∃ c < g.dc, cur.getLsbD (r * g.dc + c) ≠ prev.getLsbD (r * g.dc + c)) ∧
    (changedRows g cur prev).Pairwise (fun x y => x.addr < y.addr) ∧
    (changedRows g cur prev).length ≤ g.dr

/-- What the batches of a draw send to display i is its own list of changed rows, each once and in order, then NoOp
padding; and there are no more batches than the longest list needs (R136). -/
def Obligations.DrawSendsEachDisplayItsChangedRows : Prop :=
  ∀ s : State,
    (∀ m, (∀ l ∈ changeLists s, l.length ≤ m) → (drawBatches s).length ≤ m) ∧
    (∀ (i : Nat) (x y : DisplayWord), s.cur[i]? = some x → s.prev[i]? = some y →
      (changedRows s.cfg x y).length ≤ (drawBatches s).length ∧
      (drawBatches s).map (fun b => b.getD i noopWrite) =
        changedRows s.cfg x y ++
          List.replicate ((drawBatches s).length - (changedRows s.cfg x y).length) ⟨0x0, 0x00⟩)

/-- DRAW with `dirty` clear emits nothing; with `dirty` set it emits its batches, copies `cur` to `prev` and clears
`dirty`; it changes nothing else (R137). -/
def Obligations.DrawResult : Prop :=
  ∀ s : State,
    (s.dirty = false → exec .draw s = .next { s with response := some (.ok none) }) ∧
    (s.dirty = true → exec .draw s = .next { s with
      out := s.out ++ ((drawBatches s).flatMap serialize).map PinEvent.code
      prev := s.cur, dirty := false, response := some (.ok none) })

/-- A SETLED that changes one bit of a grid drawn up to date, then DRAW: one batch, the row's write at its display's
place and NoOp everywhere else (R138). -/
def Obligations.MinimalDiff : Prop :=
  ∀ (s : State) (row col : Int) (on : Bool), s.Inv → s.cur = s.prev → s.cfg.inRange row col = true →
    s.led row col ≠ on →
    ∃ t w, execAll [.setled row col on, .draw] s = some t ∧ t.cur[s.displayAt row col]? = some w ∧
      t.out = s.out ++ (serialize ((List.replicate s.cfg.n ⟨0x0, 0x00⟩).set (s.displayAt row col)
        (rowWrite s.cfg.dc w (row.toNat % s.cfg.dr)))).map PinEvent.code

/-- A second DRAW emits nothing if no RESET and no SETLED in range came between (R139). -/
def Obligations.SecondDrawEmitsNothing : Prop :=
  ∀ (s : State) (is : List Instr),
    (∀ i ∈ is, i ≠ .reset ∧ ∀ row col on, i = .setled row col on → s.cfg.inRange row col = false) →
    ∃ t u, execAll (.draw :: is) s = some t ∧ t.dirty = false ∧ execAll [.draw] t = some u ∧ u.out = t.out

/-- RESET's whole effect: the five initialization writes of R142, each as its own batch to all displays, then one batch
per row that clears it; `cur` and `prev` are 0 and `dirty` is clear; nothing else changes (R141, R142). -/
def Obligations.ResetResult : Prop :=
  ∀ s : State, s.cfg.legal = true →
    exec .reset s = .next { s with
      out := s.out ++ ((([⟨0xF, 0x00⟩, ⟨0x9, 0x00⟩, ⟨0xB, 0x07⟩, ⟨0xA, 0x00⟩, ⟨0xC, 0x01⟩] : List RegWrite) ++
          (List.range s.cfg.dr).map (fun k => RegWrite.mk (0x1 + k) 0x00)).flatMap
            (fun w => serialize (List.replicate (s.cfg.v * s.cfg.h) w))).map PinEvent.code
      cur := List.replicate (s.cfg.v * s.cfg.h) 0
      prev := List.replicate (s.cfg.v * s.cfg.h) 0
      dirty := false
      response := some (.ok none) }

/-- RESET then DRAW: the state after RESET is `cur = prev = 0` with `dirty` clear, and the DRAW emits nothing (R143). -/
def Obligations.DrawAfterResetEmitsNothing : Prop :=
  ∀ s : State, ∃ t u, execAll [.reset] s = some t ∧
    t.cur = List.replicate s.cfg.n 0 ∧ t.prev = List.replicate s.cfg.n 0 ∧ t.dirty = false ∧
    execAll [.draw] t = some u ∧ u.out = t.out

/-- How much a draw and a RESET emit: at most DR batches, or 5 + DR, each of N packets and of `2 + 32·N + d` events
(R146). -/
def Obligations.DrawAndResetOutputSize : Prop :=
  (∀ s : State, s.Inv →
    (drawBatches s).length = stepCount (changeLists s) ∧ (drawBatches s).length ≤ s.cfg.dr ∧
    (∀ b ∈ drawBatches s, b.length = s.cfg.n) ∧
    (s.dirty = true → ∃ t, exec .draw s = .next t ∧
      t.out = s.out ++ ((drawBatches s).flatMap serialize).map PinEvent.code)) ∧
  (∀ batch : List RegWrite, batch ≠ [] → ∃ d, 1 ≤ d ∧ d ≤ 16 * batch.length ∧
    (serialize batch).length = 2 + 32 * batch.length + d) ∧
  (∀ s : State, s.Inv → ∃ (t : State) (bs : List (List RegWrite)), exec .reset s = .next t ∧ bs.length = 5 + s.cfg.dr ∧
    (∀ b ∈ bs, b.length = s.cfg.n) ∧ t.out = s.out ++ (bs.flatMap serialize).map PinEvent.code)

/-- The most events each command can emit (R269). -/
def Obligations.CommandOutputIsBounded : Prop :=
  ∀ (i : Instr) (s : State), s.Inv →
    ∃ t, exec i s = .next t ∧ t.out.length ≤ s.out.length +
      match i with
      | .draw => s.cfg.dr * (2 + 48 * s.cfg.n)
      | .reset => (5 + s.cfg.dr) * (2 + 48 * s.cfg.n)
      | .exec _ => 2 + 48 * s.cfg.n
      | .execall _ _ => 2 + 48 * s.cfg.n
      | _ => 0

/-! The raw paths, the facade and the errors. -/

/-- EXECALL sends one batch with the write for every display, whatever its address and data. EXEC sends its batch if it
holds N writes, else raises InvalidBatch with the length. Neither changes anything else: `cur`, `prev` and `dirty` are
not touched (R144, R145). -/
def Obligations.RawPathsSendTheirBatch : Prop :=
  ∀ (s : State) (addr : Nat) (data : Byte) (batch : List RegWrite),
    exec (.execall addr data) s = .next { s with
      out := s.out ++ (serialize (List.replicate (s.cfg.v * s.cfg.h) ⟨addr, data⟩)).map PinEvent.code
      response := some (.ok none) } ∧
    (batch.length = s.cfg.v * s.cfg.h → exec (.exec batch) s = .next { s with
      out := s.out ++ (serialize batch).map PinEvent.code
      response := some (.ok none) }) ∧
    (batch.length ≠ s.cfg.v * s.cfg.h → exec (.exec batch) s = .next { s with
      response := some (.invalidBatch batch.length) })

/-- A payload word joins the words of the EXEC that is arriving. With no EXEC arriving it is refused as the command word
it then is; that second clause is the model's reading (notes/assumptions/8.md). -/
def Obligations.PayloadWordJoinsItsExec : Prop :=
  ∀ (s : State) (addr : Nat) (data : Byte),
    (s.intake ≠ [] → exec (.execPayload addr data) s = .next { s with
      intake := s.intake ++ [BitVec.ofNat 32 (addr % 256 * 256 + data.toNat)] }) ∧
    (s.intake = [] → exec (.execPayload addr data) s = .next { s with
      response := some (.illegalCommand (BitVec.ofNat 32 (addr % 256 * 256 + data.toNat))) })

/-- NUMERIC answers Unsupported with its operand, for every operand, and changes nothing else (R202). -/
def Obligations.NumericIsUnsupported : Prop :=
  ∀ (s : State) (operand : BitVec 28),
    exec (.numeric operand) s = .next { s with response := some (.unsupported operand) }

/-- A command word with OP = 0, or with OP in 8..15, is answered IllegalCommand with that word (R203). -/
def Obligations.UnassignedOpsAreIllegal : Prop :=
  ∀ (s : State) (a : BitVec 28) (b : BitVec 31),
    exec (.illegalOp0 a) s = .next { s with response := some (.illegalCommand (a.setWidth 32)) } ∧
    exec (.illegalOp8F b) s = .next { s with
      response := some (.illegalCommand (0x80000000#32 ||| b.setWidth 32)) }

/-- Every illegal word at the command port is taken and answered IllegalCommand with that word, and changes nothing
else (R77, R203). -/
def Obligations.IllegalWordsAtThePort : Prop :=
  ∀ (s : State) (w : CmdWord) (rest : List CmdWord), s.blockTurn → s.intake = [] → s.port = w :: rest →
    (w >>> 28 = 0 ∨ 8 ≤ (w >>> 28).toNat ∨
      (w >>> 28 = 1 ∧ w &&& 0x0E000000 ≠ 0) ∨ (w >>> 28 = 2 ∧ w &&& 0x0F000000 ≠ 0) ∨
      (w >>> 28 = 3 ∧ w &&& 0x0FFFFFFF ≠ 0) ∨ (w >>> 28 = 4 ∧ w &&& 0x0FFFFFFF ≠ 0) ∨
      (w >>> 28 = 5 ∧ w &&& 0x0FFF0000 ≠ 0)) →
    step s = .next { s with port := rest, response := some (.illegalCommand w) }

/-- An instruction that answers with an error writes nothing and emits nothing: only the response is there (R221). -/
def Obligations.ErrorsChangeNothingElse : Prop :=
  ∀ (i : Instr) (s t : State) (r : Response), exec i s = .next t → s.response = none → t.response = some r →
    r.status ≠ 0 → t = { s with response := some r }

/-- The response word: STATUS in [2:0], at most 5; VALUE in [8], set exactly for a GETLED that read 1; every other bit 0
(R227). -/
def Obligations.ResponseWordLayout : Prop :=
  ∀ r : Response, r.word &&& ~~~0x107 = 0 ∧ (r.word &&& 7).toNat = r.status ∧ r.status ≤ 5 ∧
    (r.word.getLsbD 8 = true ↔ r = .ok (some true))

/-- Outside the out-of-range accessors the two variants do the same (R200). -/
def Obligations.VariantsAgreeInRange : Prop :=
  ∀ (i : Instr) (s : State) (k : Bool),
    (∀ row col on, i = .setled row col on → s.cfg.inRange row col = true) →
    (∀ row col, i = .getled row col → s.cfg.inRange row col = true) →
    ∃ t, exec i s = .next t ∧
      exec i { s with cfg := { s.cfg with checked := k } } = .next { t with cfg := { t.cfg with checked := k } }

/-! An EXEC through the command port. -/

/-- An EXEC arriving word by word at the port does in the end exactly what the abstract EXEC does with its batch (R76, R80,
R145). -/
def Obligations.ExecArrivesThroughThePort : Prop :=
  ∀ (s : State) (batch : List RegWrite) (rest : List CmdWord), s.blockTurn → s.intake = [] →
    batch.length < 2 ^ 28 → (∀ w ∈ batch, w.addr < 256) →
    s.port = BitVec.ofNat 32 (6 * 2 ^ 28 + batch.length) ::
      (batch.map (fun w => BitVec.ofNat 32 (w.addr * 256 + w.data.toNat)) ++ rest) →
    ∃ t, stepN (if batch = [] then 1 else batch.length + 2) s = some t ∧
      exec (.exec batch) { s with port := rest } = .next t

/-- An EXEC with a reserved bit set in a payload word takes all its COUNT payload words and is then answered
IllegalCommand, with nothing else changed (R76, R77 (c), R221). That the command word R220 has it record is the EXEC's own
word, and not the payload word, is the model's reading (DEDUCED, notes/assumptions/16.md). -/
def Obligations.BadPayloadIsConsumedThenIllegal : Prop :=
  ∀ (s : State) (w : CmdWord) (ps rest : List CmdWord), s.blockTurn → s.intake = [] →
    w.toNat = 6 * 2 ^ 28 + ps.length → ps.length < 2 ^ 28 → (∃ p ∈ ps, p >>> 16 ≠ 0) →
    s.port = w :: (ps ++ rest) →
    stepN (ps.length + 2) s = some { s with port := rest, response := some (.illegalCommand w) }

/-- While payload words of an EXEC are missing, the block takes every word that is there as the next one, whatever its
bits, and with none there it waits and changes nothing (R76). -/
def Obligations.IncompleteExecTakesWordsAndWaits : Prop :=
  ∀ (s : State) (w : CmdWord) (ws : List CmdWord), s.blockTurn → s.intake = w :: ws → w >>> 28 = 6 →
    ws.length < (w &&& 0x0FFFFFFF).toNat →
    (s.port = [] → step s = .next s) ∧
    (∀ p rest, s.port = p :: rest → step s = .next { s with intake := s.intake ++ [p], port := rest })

/-! The serializer. -/

/-- The framing invariant (R173): the clauses of the rule in its order, for a batch of N writes. -/
def Obligations.FramingInvariant : Prop :=
  ∀ batch : List RegWrite, batch ≠ [] →
    (serialize batch).head? = some .csl ∧ (serialize batch).getLast? = some .csh ∧
    (serialize batch).count .csl = 1 ∧ (serialize batch).count .csh = 1 ∧
    (serialize batch).filter (fun e => e = .ckh ∨ e = .ckl) =
      (List.replicate (16 * batch.length) [PinEvent.ckh, PinEvent.ckl]).flatten ∧
    (serialize batch).countP (fun e => e = .dh ∨ e = .dl) =
      1 + (List.range (16 * batch.length - 1)).countP
        (fun j => (wireBits batch)[j + 1]? ≠ (wireBits batch)[j]?) ∧
    1 ≤ (serialize batch).countP (fun e => e = .dh ∨ e = .dl) ∧
    (serialize batch).countP (fun e => e = .dh ∨ e = .dl) ≤ 16 * batch.length ∧
    (serialize batch).length =
      2 + 32 * batch.length + (serialize batch).countP (fun e => e = .dh ∨ e = .dl) ∧
    ∀ k e, (serialize batch)[k]? = some e → e = .dh ∨ e = .dl →
      1 ≤ k ∧ ((serialize batch)[k - 1]? = some .csl ∨ (serialize batch)[k - 1]? = some .ckl) ∧
      (serialize batch)[k + 1]? = some .ckh

/-- The data line's levels at the clock pulses of a batch are its wire bits: the farthest display's packet first, each packet
from bit 15 down to bit 0 (R171). -/
def Obligations.FarthestPacketIsSentFirst : Prop :=
  ∀ batch : List RegWrite,
    dataAtPulses false (serialize batch) = wireBits batch ∧
    (wireBits batch).length = 16 * batch.length ∧
    ∀ (i b : Nat) (w : RegWrite), batch[i]? = some w → b < 16 →
      (wireBits batch)[16 * (batch.length - 1 - i) + (15 - b)]? = some ((packet w).getLsbD b)

/-- Every batch starts with chip-select low and then DL, also where the data line is low already (R179, R264). -/
def Obligations.FirstDataEventIsLow : Prop :=
  ∀ batch : List RegWrite, batch ≠ [] → ∃ es, serialize batch = .csl :: .dl :: .ckh :: .ckl :: es

/-! The pin events, the lines and the cascade. -/

/-- The data events drive the data line, CSL the chip-select line, each to its level; nothing but that line, and for CSL the
model's own draw counter, changes (R174, R178, R179). -/
def Obligations.DataAndSelectEventsDriveTheirLine : Prop :=
  ∀ s : State,
    exec .dh s = .next { s with din := .high } ∧
    exec .dl s = .next { s with din := .low } ∧
    exec .csl s = .next { s with cs := .low, freeIndex := s.freeIndex + 1 }

/-- CSH drives chip-select to 1; its rising edge makes every chip latch (R175, R180, R181). Model's readings: the latch takes
[11:0] of the shift register (DEDUCED, notes/assumptions/10.md), there is no latching without a rising edge (DEDUCED,
notes/assumptions/7.md), and from the unknown level it is free which of the two happens (DESIGN CHOICE,
notes/assumptions/5.md). -/
def Obligations.ChipSelectRiseLatchesAllChips : Prop :=
  ∀ s : State,
    (s.cs = .low → exec .csh s = .next { s with
      cs := .high
      chips := s.chips.map (fun c => { c with latched := some ((c.shift.setWidth 12).setWidth 16) })
      freeIndex := s.freeIndex + 1 }) ∧
    (s.cs = .high → exec .csh s = .next { s with freeIndex := s.freeIndex + 1 }) ∧
    (s.cs = .x →
      exec .csh s = .next { s with cs := .high, freeIndex := s.freeIndex + 1 } ∨
      exec .csh s = .next { s with
        cs := .high
        chips := s.chips.map (fun c => { c with latched := some ((c.shift.setWidth 12).setWidth 16) })
        freeIndex := s.freeIndex + 1 })

/-- The clock events drive the clock line and change no register and no latch of any chip, only shift registers (R176, R177,
R181). -/
def Obligations.ClockEventsDriveTheClock : Prop :=
  ∀ s : State, ∃ t u, exec .ckh s = .next t ∧ exec .ckl s = .next u ∧
    t = { s with clk := .high, chips := t.chips, freeIndex := s.freeIndex + 2 } ∧
    u = { s with clk := .low, chips := u.chips, freeIndex := s.freeIndex + 2 } ∧
    t.chips.map (fun c => { c with shift := 0 }) = s.chips.map (fun c => { c with shift := 0 }) ∧
    u.chips.map (fun c => { c with shift := 0 }) = s.chips.map (fun c => { c with shift := 0 })

/-- One clock pulse from a low clock shifts the driven data bit into the chain exactly once, whichever edge samples: chip 0
takes it, and each later chip takes the bit 15 of the chip before it. This is R181's informative reception model, which the
model follows (DEDUCED, notes/assumptions/7.md). -/
def Obligations.ClockPulseShiftsTheChainOnce : Prop :=
  ∀ (s : State) (v : Bool), s.clk = .low → s.din = Level.ofBool v →
    ∃ t, execAll [.ckh, .ckl] s = some t ∧ t.clk = .low ∧ t.chips.length = s.chips.length ∧
      (∀ c, s.chips[0]? = some c → t.chips[0]? = some { c with
        shift := (c.shift.extractLsb' 0 15).append (BitVec.ofBool v) }) ∧
      (∀ (j : Nat) (b c : Chip), s.chips[j]? = some b → s.chips[j + 1]? = some c →
        t.chips[j + 1]? = some { c with
          shift := (c.shift.extractLsb' 0 15).append (b.shift.extractLsb' 15 1) })

/-- The lines after the events of a batch: chip-select high, clock low, data at bit 0 of display 0's packet; the block is
not touched (R180). -/
def Obligations.LineLevelsAfterABatch : Prop :=
  ∀ (s : State) (w : RegWrite) (ws : List RegWrite),
    ∃ t, execAll ((serialize (w :: ws)).map PinEvent.instr) s = some t ∧
      t = { s with
        cs := .high, clk := .low, din := Level.ofBool ((packet w).getLsbD 0)
        chips := t.chips, freeIndex := t.freeIndex }

/-- With the clock low at the start, the events of a batch leave every chip holding and latching its own packet, whichever
clock edge samples (R171, R181). R181 is the spec's informative reception model of the chips, from general knowledge where it
says how the chain shifts; the model follows it and leaves the edge free (DEDUCED, notes/assumptions/7.md). -/
def Obligations.CascadeReceivesTheBatch : Prop :=
  ∀ (s : State) (batch : List RegWrite), batch ≠ [] → batch.length = s.chips.length → s.clk = .low →
    ∃ t, execAll ((serialize batch).map PinEvent.instr) s = some t ∧
      t.chips = List.zipWith (fun c w => { c with shift := packet w, latched := some (packet w) }) s.chips batch

/-! The packets. -/

/-- A Digit packet: the chip that latched it holds the byte as that row's pattern (R102 to R109, R181), and the block is
unchanged (R29). R102 to R109 say no more than that: that the chip's other registers and the other chips are unchanged is
the model's reading (DEDUCED, notes/assumptions/6.md). -/
def Obligations.DigitPacketsSetTheirRow : Prop :=
  ∀ (s : State) (pre post : List Chip) (c : Chip) (w : PktWord) (d : Byte) (r : Fin 8) (i : Instr),
    s.chips = pre ++ c :: post → (∀ x ∈ pre, x.latched = none) → c.latched = some w →
    [Instr.digit0 d, .digit1 d, .digit2 d, .digit3 d, .digit4 d, .digit5 d, .digit6 d, .digit7 d][r.val]? = some i →
    exec i s = .next { s with
      chips := pre ++ { c with digits := c.digits.set r.val d, latched := none } :: post
      freeIndex := s.freeIndex + 1 }

/-- The NoOp padding packet is ignored: only the latch is emptied (R101). -/
def Obligations.NoOpPaddingIsIgnored : Prop :=
  ∀ (s : State) (pre post : List Chip) (c : Chip) (w : PktWord),
    s.chips = pre ++ c :: post → (∀ x ∈ pre, x.latched = none) → c.latched = some w →
    exec (.noop 0) s = .next { s with
      chips := pre ++ { c with latched := none } :: post, freeIndex := s.freeIndex + 1 }

/-- Each of the five control values RESET writes (R142) is stored in its register: R31 gives the five as the chips' state after
a whole RESET. That each of the writes alone stores its value and changes nothing else of the chip or of the other chips is
the model's reading (DEDUCED, notes/assumptions/6.md), since I5 leaves a control write's effect open. -/
def Obligations.ResetControlWritesAreStored : Prop :=
  ∀ (s : State) (pre post : List Chip) (c : Chip) (w : PktWord) (i : Instr) (c' : Chip),
    s.chips = pre ++ c :: post → (∀ x ∈ pre, x.latched = none) → c.latched = some w →
    (i, c') ∈ [(Instr.displaytest 0x00, { c with displayTest := 0x00 }), (.decodemode 0x00, { c with decodeMode := 0x00 }),
      (.scanlimit 0x07, { c with scanLimit := 0x07 }), (.intensity 0x00, { c with intensity := 0x00 }),
      (.shutdown 0x01, { c with shutdown := 0x01 })] →
    exec i s = .next { s with
      chips := pre ++ { c' with latched := none } :: post, freeIndex := s.freeIndex + 1 }

/-- Every control register holds each of its named values after the write of that value. R111 to R114 give the values their
names; that the register then holds the value, and that the other chips are unchanged, is the model's reading (DEDUCED,
notes/assumptions/6.md), since I5 leaves the contents open. What the other control registers of that chip then hold is
not claimed. -/
def Obligations.NamedControlValuesAreHeld : Prop :=
  ∀ (s : State) (pre post : List Chip) (c : Chip) (w : PktWord) (d : Byte),
    s.chips = pre ++ c :: post → (∀ x ∈ pre, x.latched = none) → c.latched = some w →
    ∃ c1 c2 c3 c4 : Chip,
      exec (.decodemode d) s = .next { s with chips := pre ++ c1 :: post, freeIndex := s.freeIndex + 1 } ∧
      exec (.scanlimit d) s = .next { s with chips := pre ++ c2 :: post, freeIndex := s.freeIndex + 1 } ∧
      exec (.shutdown d) s = .next { s with chips := pre ++ c3 :: post, freeIndex := s.freeIndex + 1 } ∧
      exec (.displaytest d) s = .next { s with chips := pre ++ c4 :: post, freeIndex := s.freeIndex + 1 } ∧
      (d = 0x00 ∨ d = 0x01 ∨ d = 0x0F ∨ d = 0xFF → c1.decodeMode = d) ∧
      (d.toNat ≤ 7 → c2.scanLimit = d) ∧
      (d = 0x00 ∨ d = 0x01 → c3.shutdown = d) ∧
      (d = 0x00 ∨ d = 0x01 → c4.displayTest = d)

/-- A packet to any address but a Digit's, with any data, is performed by the one chip that latched it (R181). That it leaves
that chip's Digit registers and shift register and the other chips as they were is the model's reading (DEDUCED from R147,
unsafe, notes/assumptions/6.md): the spec says of 0xD, 0xE and unnamed data only that the effect is not in its source.
The block is unchanged (R29). -/
def Obligations.OtherPacketsKeepTheDigits : Prop :=
  ∀ (s : State) (pre post : List Chip) (c : Chip) (w : PktWord) (d : Byte) (i : Instr),
    s.chips = pre ++ c :: post → (∀ x ∈ pre, x.latched = none) → c.latched = some w →
    i ∈ [Instr.noop d, .decodemode d, .intensity d, .scanlimit d, .shutdown d, .addrD d, .addrE d, .displaytest d] →
    ∃ c' : Chip, exec i s = .next { s with chips := pre ++ c' :: post, freeIndex := s.freeIndex + 1 } ∧
      c'.latched = none ∧ c'.digits = c.digits ∧ c'.shift = c.shift

/-- A packet that no chip has latched changes nothing. This is the model's reading (notes/assumptions/9.md): the spec's chips
act only on what they latched (R181). -/
def Obligations.UnlatchedPacketChangesNothing : Prop :=
  ∀ (s : State) (w : PktWord) (i : Instr), (∀ c ∈ s.chips, c.latched = none) → decodePacket w = .ok i →
    exec i s = .next s

/-! The step and the whole machine. -/

/-- A step runs the decoded instruction. The spec gives that the executor replays a command's events in order and before the
response, and that the next command comes only after it (R54, R55), and that a command is its words once all have arrived
(R73, R76). The model's choices (DESIGN CHOICE, notes/assumptions/4.md): a chip's latched packet goes first, one chip a step
and before the next event, and the executor replays one event a step; and its reading (DEDUCED, notes/assumptions/12.md):
each payload word of an EXEC that has not arrived whole is taken in a step of its own. -/
def Obligations.StepRunsTheDecodedInstruction : Prop :=
  ∀ (s : State) (i : Instr),
    (∀ w, latchedWord s.chips = some w → decodePacket w = .ok i → step s = exec i s) ∧
    (∀ c, latchedWord s.chips = none → s.out[s.replayed]? = some c → decodePin c = .ok i →
      step s = exec i { s with replayed := s.replayed + 1 }) ∧
    (∀ w rest, s.blockTurn → s.intake = [] → s.port = w :: rest → decodeCommand [w] = .ok (i, []) →
      step s = exec i { s with port := rest }) ∧
    (∀ w ws, s.blockTurn → s.intake = w :: ws → decodeCommand (w :: ws) = .ok (i, []) →
      step s = exec i { s with intake := [] }) ∧
    (∀ w ws p rest, s.blockTurn → s.intake = w :: ws → decodeCommand (w :: ws) = .error .incomplete →
      s.port = p :: rest → decode (.payload p) = .ok i → step s = exec i { s with port := rest })

/-- While an event waits for its replay or a response waits for its delivery, no step touches the block: the next command
starts only when all that is done (R54, R55, R266). That the same holds while a chip still has a latched write to perform is
the model's choice (DESIGN CHOICE, notes/assumptions/4.md). -/
def Obligations.NoCommandStartsBeforeTheReplayEnds : Prop :=
  ∀ s t : State, step s = .next t → ¬ s.blockTurn →
    t.cur = s.cur ∧ t.prev = s.prev ∧ t.dirty = s.dirty ∧ t.port = s.port ∧ t.intake = s.intake ∧ t.out = s.out

/-- A response reaches the host only after every event is replayed, and it is delivered once (R55, R227, R230). That it also
waits for the chips' latched writes is the model's choice (DESIGN CHOICE, notes/assumptions/4.md). -/
def Obligations.ResponseFollowsTheReplay : Prop :=
  ∀ s t : State, step s = .next t →
    t.responses = s.responses ∨
    (latchedWord s.chips = none ∧ s.out[s.replayed]? = none ∧
      ∃ r, s.response = some r ∧ t.responses = s.responses ++ [r] ∧ t.response = none)

/-- The output stream only grows at its end, and so do the responses; the executor does not go back (R50, R54, R55). That it
moves forward by at most one event a step is the model's choice (DESIGN CHOICE, notes/assumptions/4.md). -/
def Obligations.OutputStreamIsAppendOnly : Prop :=
  ∀ s t : State, step s = .next t →
    s.out <+: t.out ∧ s.responses <+: t.responses ∧ s.replayed ≤ t.replayed ∧ t.replayed ≤ s.replayed + 1

/-- No step changes a configuration register (R21). -/
def Obligations.ConfigurationIsConstant : Prop :=
  ∀ s t : State, step s = .next t → t.cfg = s.cfg

/-- The invariant holds in the state after reset; the geometry of that instance is the model's choice
(notes/assumptions/1.md). -/
def Obligations.ResetStateIsSound : Prop := State.reset.Inv

/-- Construction answers a sound instance with everything 0, nothing emitted and the lines unknown exactly for a legal
geometry, and InvalidGeometry otherwise (R222, R250, R251). -/
def Obligations.ConstructionResult : Prop :=
  ∀ (dr dc v h : Int) (checked : Bool),
    (1 ≤ dr ∧ dr ≤ 8 ∧ 1 ≤ dc ∧ dc ≤ 8 ∧ 1 ≤ v ∧ 1 ≤ h ∧ v * dr ≤ 4096 ∧ h * dc ≤ 4096 →
      ∃ s, construct dr dc v h checked = .ok s ∧ s.Inv ∧
        (s.cfg.dr : Int) = dr ∧ (s.cfg.dc : Int) = dc ∧ (s.cfg.v : Int) = v ∧ (s.cfg.h : Int) = h ∧
        s.cfg.checked = checked ∧ s.cfg.coordW = 12 ∧
        (∀ w ∈ s.cur, w = 0) ∧ (∀ w ∈ s.prev, w = 0) ∧ s.dirty = false ∧
        s.out = [] ∧ s.response = none ∧ s.responses = [] ∧ s.cs = .x ∧ s.clk = .x ∧ s.din = .x) ∧
    (¬ (1 ≤ dr ∧ dr ≤ 8 ∧ 1 ≤ dc ∧ dc ≤ 8 ∧ 1 ≤ v ∧ 1 ≤ h ∧ v * dr ≤ 4096 ∧ h * dc ≤ 4096) →
      construct dr dc v h checked = .error (.invalidGeometry dr dc v h))

/-- Every step keeps the invariant, with the clauses (a), (b) and (c) of R30 in it. -/
def Obligations.EveryStepKeepsTheInvariant : Prop :=
  ∀ s t : State, s.Inv → step s = .next t → t.Inv

/-- From a sound state the machine never stops: no fault, no refusal (R239, I9). -/
def Obligations.SoundStatesNeverStop : Prop :=
  ∀ s : State, s.Inv → ∃ t, step s = .next t

/-- From a sound state all that is pending is done in a bounded number of steps and the block has its turn (R269). The bound
itself counts the model's own steps, one event and one chip's write a step, and rests on that choice (DESIGN CHOICE,
notes/assumptions/4.md). -/
def Obligations.PendingWorkEnds : Prop :=
  ∀ s : State, s.Inv →
    ∃ k t, k ≤ (s.out.length - s.replayed) * (s.cfg.n + 1) + s.cfg.n + 1 ∧ stepN k s = some t ∧ t.blockTurn

/-- A RESET taken at the port with the clock line low: when the block has its next turn, every chip holds the values of R31's
table (R31, R253, R265), which assumes R181's informative reception model (notes/assumptions/7.md). R31 leaves the Digit
registers from DR up unspecified: that they are as they were is the model's reading (DEDUCED, notes/assumptions/6.md). -/
def Obligations.ResetReachesEveryChip : Prop :=
  ∀ (s : State) (rest : List CmdWord), s.Inv → s.blockTurn → s.intake = [] → s.clk = .low →
    s.port = 0x40000000#32 :: rest →
    ∃ k t, stepN k s = some t ∧ t.blockTurn ∧ t.port = rest ∧ t.responses = s.responses ++ [.ok none] ∧
      t.chips.length = s.chips.length ∧
      ∀ (j : Nat) (b c : Chip), s.chips[j]? = some b → t.chips[j]? = some c →
        c.displayTest = 0x00 ∧ c.decodeMode = 0x00 ∧ c.scanLimit = 0x07 ∧ c.intensity = 0x00 ∧ c.shutdown = 0x01 ∧
        (∀ r : Fin 8, r.val < s.cfg.dr → c.digits[r.val] = 0x00) ∧
        (∀ r : Fin 8, s.cfg.dr ≤ r.val → c.digits[r.val] = b.digits[r.val])

/-- A DRAW taken at the port with the clock line low and every chip showing its display's last drawn rows: when the block has
its next turn, every chip's Digit registers show `cur` (R147). R147 supposes that each chip received the writes addressed to
it: the model has that from R181's informative reception model (DEDUCED, notes/assumptions/7.md). That a write disturbs no
other row of its chip is DEDUCED too (notes/assumptions/6.md). -/
def Obligations.DrawReachesEveryChip : Prop :=
  ∀ (s : State) (rest : List CmdWord), s.Inv → s.blockTurn → s.intake = [] → s.clk = .low →
    s.port = 0x30000000#32 :: rest →
    (∀ (j : Nat) (c : Chip) (p : DisplayWord), s.chips[j]? = some c → s.prev[j]? = some p →
      ∀ r : Fin 8, r.val < s.cfg.dr → c.digits[r.val] = (rowWrite s.cfg.dc p r.val).data) →
    ∃ k t, stepN k s = some t ∧ t.blockTurn ∧ t.port = rest ∧ t.responses = s.responses ++ [.ok none] ∧
      t.cur = s.cur ∧ t.chips.length = s.chips.length ∧
      ∀ (j : Nat) (c : Chip) (w : DisplayWord), t.chips[j]? = some c → s.cur[j]? = some w →
        ∀ r : Fin 8, r.val < s.cfg.dr → c.digits[r.val] = (rowWrite s.cfg.dc w r.val).data
end

