-- ==== Sys2Proof/Laws/State.lean ====
section
/-! SUPPORT. One lemma per field per update of State, so that no later proof unfolds a record update. -/

namespace Sys2Proof.Machine

variable (s : State)

@[simp] theorem State.emitAll_cfg (es : List PinEvent) : (s.emitAll es).cfg = s.cfg := rfl
@[simp] theorem State.emitAll_cur (es : List PinEvent) : (s.emitAll es).cur = s.cur := rfl
@[simp] theorem State.emitAll_prev (es : List PinEvent) : (s.emitAll es).prev = s.prev := rfl
@[simp] theorem State.emitAll_dirty (es : List PinEvent) : (s.emitAll es).dirty = s.dirty := rfl
@[simp] theorem State.emitAll_port (es : List PinEvent) : (s.emitAll es).port = s.port := rfl
@[simp] theorem State.emitAll_intake (es : List PinEvent) : (s.emitAll es).intake = s.intake := rfl
@[simp] theorem State.emitAll_out (es : List PinEvent) : (s.emitAll es).out = s.out ++ es.map PinEvent.code := rfl
@[simp] theorem State.emitAll_replayed (es : List PinEvent) : (s.emitAll es).replayed = s.replayed := rfl
@[simp] theorem State.emitAll_response (es : List PinEvent) : (s.emitAll es).response = s.response := rfl
@[simp] theorem State.emitAll_responses (es : List PinEvent) : (s.emitAll es).responses = s.responses := rfl
@[simp] theorem State.emitAll_cs (es : List PinEvent) : (s.emitAll es).cs = s.cs := rfl
@[simp] theorem State.emitAll_clk (es : List PinEvent) : (s.emitAll es).clk = s.clk := rfl
@[simp] theorem State.emitAll_din (es : List PinEvent) : (s.emitAll es).din = s.din := rfl
@[simp] theorem State.emitAll_chips (es : List PinEvent) : (s.emitAll es).chips = s.chips := rfl
@[simp] theorem State.emitAll_freeIndex (es : List PinEvent) : (s.emitAll es).freeIndex = s.freeIndex := rfl

@[simp] theorem State.respond_cfg (r : Response) : (s.respond r).cfg = s.cfg := rfl
@[simp] theorem State.respond_cur (r : Response) : (s.respond r).cur = s.cur := rfl
@[simp] theorem State.respond_prev (r : Response) : (s.respond r).prev = s.prev := rfl
@[simp] theorem State.respond_dirty (r : Response) : (s.respond r).dirty = s.dirty := rfl
@[simp] theorem State.respond_port (r : Response) : (s.respond r).port = s.port := rfl
@[simp] theorem State.respond_intake (r : Response) : (s.respond r).intake = s.intake := rfl
@[simp] theorem State.respond_out (r : Response) : (s.respond r).out = s.out := rfl
@[simp] theorem State.respond_replayed (r : Response) : (s.respond r).replayed = s.replayed := rfl
@[simp] theorem State.respond_response (r : Response) : (s.respond r).response = some r := rfl
@[simp] theorem State.respond_responses (r : Response) : (s.respond r).responses = s.responses := rfl
@[simp] theorem State.respond_cs (r : Response) : (s.respond r).cs = s.cs := rfl
@[simp] theorem State.respond_clk (r : Response) : (s.respond r).clk = s.clk := rfl
@[simp] theorem State.respond_din (r : Response) : (s.respond r).din = s.din := rfl
@[simp] theorem State.respond_chips (r : Response) : (s.respond r).chips = s.chips := rfl
@[simp] theorem State.respond_freeIndex (r : Response) : (s.respond r).freeIndex = s.freeIndex := rfl

@[simp] theorem State.raise_cfg (r : Response) : (s.raise r).cfg = s.cfg := rfl
@[simp] theorem State.raise_cur (r : Response) : (s.raise r).cur = s.cur := rfl
@[simp] theorem State.raise_prev (r : Response) : (s.raise r).prev = s.prev := rfl
@[simp] theorem State.raise_dirty (r : Response) : (s.raise r).dirty = s.dirty := rfl
@[simp] theorem State.raise_port (r : Response) : (s.raise r).port = s.port := rfl
@[simp] theorem State.raise_intake (r : Response) : (s.raise r).intake = s.intake := rfl
@[simp] theorem State.raise_out (r : Response) : (s.raise r).out = s.out := rfl
@[simp] theorem State.raise_replayed (r : Response) : (s.raise r).replayed = s.replayed := rfl
@[simp] theorem State.raise_response (r : Response) : (s.raise r).response = some r := rfl
@[simp] theorem State.raise_responses (r : Response) : (s.raise r).responses = s.responses := rfl
@[simp] theorem State.raise_cs (r : Response) : (s.raise r).cs = s.cs := rfl
@[simp] theorem State.raise_clk (r : Response) : (s.raise r).clk = s.clk := rfl
@[simp] theorem State.raise_din (r : Response) : (s.raise r).din = s.din := rfl
@[simp] theorem State.raise_chips (r : Response) : (s.raise r).chips = s.chips := rfl
@[simp] theorem State.raise_freeIndex (r : Response) : (s.raise r).freeIndex = s.freeIndex := rfl

@[simp] theorem State.deliver_cfg (r : Response) : (s.deliver r).cfg = s.cfg := rfl
@[simp] theorem State.deliver_cur (r : Response) : (s.deliver r).cur = s.cur := rfl
@[simp] theorem State.deliver_prev (r : Response) : (s.deliver r).prev = s.prev := rfl
@[simp] theorem State.deliver_dirty (r : Response) : (s.deliver r).dirty = s.dirty := rfl
@[simp] theorem State.deliver_port (r : Response) : (s.deliver r).port = s.port := rfl
@[simp] theorem State.deliver_intake (r : Response) : (s.deliver r).intake = s.intake := rfl
@[simp] theorem State.deliver_out (r : Response) : (s.deliver r).out = s.out := rfl
@[simp] theorem State.deliver_replayed (r : Response) : (s.deliver r).replayed = s.replayed := rfl
@[simp] theorem State.deliver_response (r : Response) : (s.deliver r).response = none := rfl
@[simp] theorem State.deliver_responses (r : Response) : (s.deliver r).responses = s.responses ++ [r] := rfl
@[simp] theorem State.deliver_cs (r : Response) : (s.deliver r).cs = s.cs := rfl
@[simp] theorem State.deliver_clk (r : Response) : (s.deliver r).clk = s.clk := rfl
@[simp] theorem State.deliver_din (r : Response) : (s.deliver r).din = s.din := rfl
@[simp] theorem State.deliver_chips (r : Response) : (s.deliver r).chips = s.chips := rfl
@[simp] theorem State.deliver_freeIndex (r : Response) : (s.deliver r).freeIndex = s.freeIndex := rfl

@[simp] theorem State.setCur_cfg (i : Nat) (v : DisplayWord) : (s.setCur i v).cfg = s.cfg := rfl
@[simp] theorem State.setCur_cur (i : Nat) (v : DisplayWord) : (s.setCur i v).cur = s.cur.set i v := rfl
@[simp] theorem State.setCur_prev (i : Nat) (v : DisplayWord) : (s.setCur i v).prev = s.prev := rfl
@[simp] theorem State.setCur_dirty (i : Nat) (v : DisplayWord) : (s.setCur i v).dirty = s.dirty := rfl
@[simp] theorem State.setCur_port (i : Nat) (v : DisplayWord) : (s.setCur i v).port = s.port := rfl
@[simp] theorem State.setCur_intake (i : Nat) (v : DisplayWord) : (s.setCur i v).intake = s.intake := rfl
@[simp] theorem State.setCur_out (i : Nat) (v : DisplayWord) : (s.setCur i v).out = s.out := rfl
@[simp] theorem State.setCur_replayed (i : Nat) (v : DisplayWord) : (s.setCur i v).replayed = s.replayed := rfl
@[simp] theorem State.setCur_response (i : Nat) (v : DisplayWord) : (s.setCur i v).response = s.response := rfl
@[simp] theorem State.setCur_responses (i : Nat) (v : DisplayWord) : (s.setCur i v).responses = s.responses := rfl
@[simp] theorem State.setCur_cs (i : Nat) (v : DisplayWord) : (s.setCur i v).cs = s.cs := rfl
@[simp] theorem State.setCur_clk (i : Nat) (v : DisplayWord) : (s.setCur i v).clk = s.clk := rfl
@[simp] theorem State.setCur_din (i : Nat) (v : DisplayWord) : (s.setCur i v).din = s.din := rfl
@[simp] theorem State.setCur_chips (i : Nat) (v : DisplayWord) : (s.setCur i v).chips = s.chips := rfl
@[simp] theorem State.setCur_freeIndex (i : Nat) (v : DisplayWord) : (s.setCur i v).freeIndex = s.freeIndex := rfl

@[simp] theorem State.copyCur_cfg : (s.copyCur).cfg = s.cfg := rfl
@[simp] theorem State.copyCur_cur : (s.copyCur).cur = s.cur := rfl
@[simp] theorem State.copyCur_prev : (s.copyCur).prev = s.cur := rfl
@[simp] theorem State.copyCur_dirty : (s.copyCur).dirty = s.dirty := rfl
@[simp] theorem State.copyCur_port : (s.copyCur).port = s.port := rfl
@[simp] theorem State.copyCur_intake : (s.copyCur).intake = s.intake := rfl
@[simp] theorem State.copyCur_out : (s.copyCur).out = s.out := rfl
@[simp] theorem State.copyCur_replayed : (s.copyCur).replayed = s.replayed := rfl
@[simp] theorem State.copyCur_response : (s.copyCur).response = s.response := rfl
@[simp] theorem State.copyCur_responses : (s.copyCur).responses = s.responses := rfl
@[simp] theorem State.copyCur_cs : (s.copyCur).cs = s.cs := rfl
@[simp] theorem State.copyCur_clk : (s.copyCur).clk = s.clk := rfl
@[simp] theorem State.copyCur_din : (s.copyCur).din = s.din := rfl
@[simp] theorem State.copyCur_chips : (s.copyCur).chips = s.chips := rfl
@[simp] theorem State.copyCur_freeIndex : (s.copyCur).freeIndex = s.freeIndex := rfl

@[simp] theorem State.blank_cfg : (s.blank).cfg = s.cfg := rfl
@[simp] theorem State.blank_cur : (s.blank).cur = List.replicate s.cfg.n 0 := rfl
@[simp] theorem State.blank_prev : (s.blank).prev = List.replicate s.cfg.n sentinel := rfl
@[simp] theorem State.blank_dirty : (s.blank).dirty = s.dirty := rfl
@[simp] theorem State.blank_port : (s.blank).port = s.port := rfl
@[simp] theorem State.blank_intake : (s.blank).intake = s.intake := rfl
@[simp] theorem State.blank_out : (s.blank).out = s.out := rfl
@[simp] theorem State.blank_replayed : (s.blank).replayed = s.replayed := rfl
@[simp] theorem State.blank_response : (s.blank).response = s.response := rfl
@[simp] theorem State.blank_responses : (s.blank).responses = s.responses := rfl
@[simp] theorem State.blank_cs : (s.blank).cs = s.cs := rfl
@[simp] theorem State.blank_clk : (s.blank).clk = s.clk := rfl
@[simp] theorem State.blank_din : (s.blank).din = s.din := rfl
@[simp] theorem State.blank_chips : (s.blank).chips = s.chips := rfl
@[simp] theorem State.blank_freeIndex : (s.blank).freeIndex = s.freeIndex := rfl

@[simp] theorem State.markDirty_cfg : (s.markDirty).cfg = s.cfg := rfl
@[simp] theorem State.markDirty_cur : (s.markDirty).cur = s.cur := rfl
@[simp] theorem State.markDirty_prev : (s.markDirty).prev = s.prev := rfl
@[simp] theorem State.markDirty_dirty : (s.markDirty).dirty = true := rfl
@[simp] theorem State.markDirty_port : (s.markDirty).port = s.port := rfl
@[simp] theorem State.markDirty_intake : (s.markDirty).intake = s.intake := rfl
@[simp] theorem State.markDirty_out : (s.markDirty).out = s.out := rfl
@[simp] theorem State.markDirty_replayed : (s.markDirty).replayed = s.replayed := rfl
@[simp] theorem State.markDirty_response : (s.markDirty).response = s.response := rfl
@[simp] theorem State.markDirty_responses : (s.markDirty).responses = s.responses := rfl
@[simp] theorem State.markDirty_cs : (s.markDirty).cs = s.cs := rfl
@[simp] theorem State.markDirty_clk : (s.markDirty).clk = s.clk := rfl
@[simp] theorem State.markDirty_din : (s.markDirty).din = s.din := rfl
@[simp] theorem State.markDirty_chips : (s.markDirty).chips = s.chips := rfl
@[simp] theorem State.markDirty_freeIndex : (s.markDirty).freeIndex = s.freeIndex := rfl

@[simp] theorem State.clearDirty_cfg : (s.clearDirty).cfg = s.cfg := rfl
@[simp] theorem State.clearDirty_cur : (s.clearDirty).cur = s.cur := rfl
@[simp] theorem State.clearDirty_prev : (s.clearDirty).prev = s.prev := rfl
@[simp] theorem State.clearDirty_dirty : (s.clearDirty).dirty = false := rfl
@[simp] theorem State.clearDirty_port : (s.clearDirty).port = s.port := rfl
@[simp] theorem State.clearDirty_intake : (s.clearDirty).intake = s.intake := rfl
@[simp] theorem State.clearDirty_out : (s.clearDirty).out = s.out := rfl
@[simp] theorem State.clearDirty_replayed : (s.clearDirty).replayed = s.replayed := rfl
@[simp] theorem State.clearDirty_response : (s.clearDirty).response = s.response := rfl
@[simp] theorem State.clearDirty_responses : (s.clearDirty).responses = s.responses := rfl
@[simp] theorem State.clearDirty_cs : (s.clearDirty).cs = s.cs := rfl
@[simp] theorem State.clearDirty_clk : (s.clearDirty).clk = s.clk := rfl
@[simp] theorem State.clearDirty_din : (s.clearDirty).din = s.din := rfl
@[simp] theorem State.clearDirty_chips : (s.clearDirty).chips = s.chips := rfl
@[simp] theorem State.clearDirty_freeIndex : (s.clearDirty).freeIndex = s.freeIndex := rfl

@[simp] theorem State.takePayload_cfg (w : CmdWord) : (s.takePayload w).cfg = s.cfg := rfl
@[simp] theorem State.takePayload_cur (w : CmdWord) : (s.takePayload w).cur = s.cur := rfl
@[simp] theorem State.takePayload_prev (w : CmdWord) : (s.takePayload w).prev = s.prev := rfl
@[simp] theorem State.takePayload_dirty (w : CmdWord) : (s.takePayload w).dirty = s.dirty := rfl
@[simp] theorem State.takePayload_port (w : CmdWord) : (s.takePayload w).port = s.port := rfl
@[simp] theorem State.takePayload_intake (w : CmdWord) : (s.takePayload w).intake = s.intake ++ [w] := rfl
@[simp] theorem State.takePayload_out (w : CmdWord) : (s.takePayload w).out = s.out := rfl
@[simp] theorem State.takePayload_replayed (w : CmdWord) : (s.takePayload w).replayed = s.replayed := rfl
@[simp] theorem State.takePayload_response (w : CmdWord) : (s.takePayload w).response = s.response := rfl
@[simp] theorem State.takePayload_responses (w : CmdWord) : (s.takePayload w).responses = s.responses := rfl
@[simp] theorem State.takePayload_cs (w : CmdWord) : (s.takePayload w).cs = s.cs := rfl
@[simp] theorem State.takePayload_clk (w : CmdWord) : (s.takePayload w).clk = s.clk := rfl
@[simp] theorem State.takePayload_din (w : CmdWord) : (s.takePayload w).din = s.din := rfl
@[simp] theorem State.takePayload_chips (w : CmdWord) : (s.takePayload w).chips = s.chips := rfl
@[simp] theorem State.takePayload_freeIndex (w : CmdWord) : (s.takePayload w).freeIndex = s.freeIndex := rfl

@[simp] theorem State.send_cfg (w : CmdWord) : (s.send w).cfg = s.cfg := rfl
@[simp] theorem State.send_cur (w : CmdWord) : (s.send w).cur = s.cur := rfl
@[simp] theorem State.send_prev (w : CmdWord) : (s.send w).prev = s.prev := rfl
@[simp] theorem State.send_dirty (w : CmdWord) : (s.send w).dirty = s.dirty := rfl
@[simp] theorem State.send_port (w : CmdWord) : (s.send w).port = s.port ++ [w] := rfl
@[simp] theorem State.send_intake (w : CmdWord) : (s.send w).intake = s.intake := rfl
@[simp] theorem State.send_out (w : CmdWord) : (s.send w).out = s.out := rfl
@[simp] theorem State.send_replayed (w : CmdWord) : (s.send w).replayed = s.replayed := rfl
@[simp] theorem State.send_response (w : CmdWord) : (s.send w).response = s.response := rfl
@[simp] theorem State.send_responses (w : CmdWord) : (s.send w).responses = s.responses := rfl
@[simp] theorem State.send_cs (w : CmdWord) : (s.send w).cs = s.cs := rfl
@[simp] theorem State.send_clk (w : CmdWord) : (s.send w).clk = s.clk := rfl
@[simp] theorem State.send_din (w : CmdWord) : (s.send w).din = s.din := rfl
@[simp] theorem State.send_chips (w : CmdWord) : (s.send w).chips = s.chips := rfl
@[simp] theorem State.send_freeIndex (w : CmdWord) : (s.send w).freeIndex = s.freeIndex := rfl

@[simp] theorem State.driveDin_cfg (v : Bool) : (s.driveDin v).cfg = s.cfg := rfl
@[simp] theorem State.driveDin_cur (v : Bool) : (s.driveDin v).cur = s.cur := rfl
@[simp] theorem State.driveDin_prev (v : Bool) : (s.driveDin v).prev = s.prev := rfl
@[simp] theorem State.driveDin_dirty (v : Bool) : (s.driveDin v).dirty = s.dirty := rfl
@[simp] theorem State.driveDin_port (v : Bool) : (s.driveDin v).port = s.port := rfl
@[simp] theorem State.driveDin_intake (v : Bool) : (s.driveDin v).intake = s.intake := rfl
@[simp] theorem State.driveDin_out (v : Bool) : (s.driveDin v).out = s.out := rfl
@[simp] theorem State.driveDin_replayed (v : Bool) : (s.driveDin v).replayed = s.replayed := rfl
@[simp] theorem State.driveDin_response (v : Bool) : (s.driveDin v).response = s.response := rfl
@[simp] theorem State.driveDin_responses (v : Bool) : (s.driveDin v).responses = s.responses := rfl
@[simp] theorem State.driveDin_cs (v : Bool) : (s.driveDin v).cs = s.cs := rfl
@[simp] theorem State.driveDin_clk (v : Bool) : (s.driveDin v).clk = s.clk := rfl
@[simp] theorem State.driveDin_din (v : Bool) : (s.driveDin v).din = Level.ofBool v := rfl
@[simp] theorem State.driveDin_chips (v : Bool) : (s.driveDin v).chips = s.chips := rfl
@[simp] theorem State.driveDin_freeIndex (v : Bool) : (s.driveDin v).freeIndex = s.freeIndex := rfl

@[simp] theorem State.driveCs_cfg (v : Bool) : (s.driveCs v).cfg = s.cfg := rfl
@[simp] theorem State.driveCs_cur (v : Bool) : (s.driveCs v).cur = s.cur := rfl
@[simp] theorem State.driveCs_prev (v : Bool) : (s.driveCs v).prev = s.prev := rfl
@[simp] theorem State.driveCs_dirty (v : Bool) : (s.driveCs v).dirty = s.dirty := rfl
@[simp] theorem State.driveCs_port (v : Bool) : (s.driveCs v).port = s.port := rfl
@[simp] theorem State.driveCs_intake (v : Bool) : (s.driveCs v).intake = s.intake := rfl
@[simp] theorem State.driveCs_out (v : Bool) : (s.driveCs v).out = s.out := rfl
@[simp] theorem State.driveCs_replayed (v : Bool) : (s.driveCs v).replayed = s.replayed := rfl
@[simp] theorem State.driveCs_response (v : Bool) : (s.driveCs v).response = s.response := rfl
@[simp] theorem State.driveCs_responses (v : Bool) : (s.driveCs v).responses = s.responses := rfl
@[simp] theorem State.driveCs_cs (v : Bool) : (s.driveCs v).cs = Level.ofBool v := rfl
@[simp] theorem State.driveCs_clk (v : Bool) : (s.driveCs v).clk = s.clk := rfl
@[simp] theorem State.driveCs_din (v : Bool) : (s.driveCs v).din = s.din := rfl
@[simp] theorem State.driveCs_chips (v : Bool) : (s.driveCs v).chips = if !s.cs.found (Config.undrivenLevel s.freeIndex) && v then latchAll s.chips else s.chips := rfl
@[simp] theorem State.driveCs_freeIndex (v : Bool) : (s.driveCs v).freeIndex = s.freeIndex + 1 := rfl

@[simp] theorem State.driveClk_cfg (v : Bool) : (s.driveClk v).cfg = s.cfg := rfl
@[simp] theorem State.driveClk_cur (v : Bool) : (s.driveClk v).cur = s.cur := rfl
@[simp] theorem State.driveClk_prev (v : Bool) : (s.driveClk v).prev = s.prev := rfl
@[simp] theorem State.driveClk_dirty (v : Bool) : (s.driveClk v).dirty = s.dirty := rfl
@[simp] theorem State.driveClk_port (v : Bool) : (s.driveClk v).port = s.port := rfl
@[simp] theorem State.driveClk_intake (v : Bool) : (s.driveClk v).intake = s.intake := rfl
@[simp] theorem State.driveClk_out (v : Bool) : (s.driveClk v).out = s.out := rfl
@[simp] theorem State.driveClk_replayed (v : Bool) : (s.driveClk v).replayed = s.replayed := rfl
@[simp] theorem State.driveClk_response (v : Bool) : (s.driveClk v).response = s.response := rfl
@[simp] theorem State.driveClk_responses (v : Bool) : (s.driveClk v).responses = s.responses := rfl
@[simp] theorem State.driveClk_cs (v : Bool) : (s.driveClk v).cs = s.cs := rfl
@[simp] theorem State.driveClk_clk (v : Bool) : (s.driveClk v).clk = Level.ofBool v := rfl
@[simp] theorem State.driveClk_din (v : Bool) : (s.driveClk v).din = s.din := rfl
@[simp] theorem State.driveClk_chips (v : Bool) : (s.driveClk v).chips = if sampleEdge Config.samplesOnRise (s.clk.found (Config.undrivenLevel s.freeIndex)) v then shiftChain (s.din.found (Config.undrivenLevel (s.freeIndex + 1))) s.chips else s.chips := rfl
@[simp] theorem State.driveClk_freeIndex (v : Bool) : (s.driveClk v).freeIndex = s.freeIndex + 2 := rfl

@[simp] theorem State.sendToAll_cfg (w : RegWrite) : (s.sendToAll w).cfg = s.cfg := rfl
@[simp] theorem State.sendToAll_cur (w : RegWrite) : (s.sendToAll w).cur = s.cur := rfl
@[simp] theorem State.sendToAll_prev (w : RegWrite) : (s.sendToAll w).prev = s.prev := rfl
@[simp] theorem State.sendToAll_dirty (w : RegWrite) : (s.sendToAll w).dirty = s.dirty := rfl
@[simp] theorem State.sendToAll_port (w : RegWrite) : (s.sendToAll w).port = s.port := rfl
@[simp] theorem State.sendToAll_intake (w : RegWrite) : (s.sendToAll w).intake = s.intake := rfl
@[simp] theorem State.sendToAll_out (w : RegWrite) : (s.sendToAll w).out = s.out ++ (serialize (List.replicate s.cfg.n w)).map PinEvent.code := rfl
@[simp] theorem State.sendToAll_replayed (w : RegWrite) : (s.sendToAll w).replayed = s.replayed := rfl
@[simp] theorem State.sendToAll_response (w : RegWrite) : (s.sendToAll w).response = s.response := rfl
@[simp] theorem State.sendToAll_responses (w : RegWrite) : (s.sendToAll w).responses = s.responses := rfl
@[simp] theorem State.sendToAll_cs (w : RegWrite) : (s.sendToAll w).cs = s.cs := rfl
@[simp] theorem State.sendToAll_clk (w : RegWrite) : (s.sendToAll w).clk = s.clk := rfl
@[simp] theorem State.sendToAll_din (w : RegWrite) : (s.sendToAll w).din = s.din := rfl
@[simp] theorem State.sendToAll_chips (w : RegWrite) : (s.sendToAll w).chips = s.chips := rfl
@[simp] theorem State.sendToAll_freeIndex (w : RegWrite) : (s.sendToAll w).freeIndex = s.freeIndex := rfl

@[simp] theorem State.drawBody_cfg : (s.drawBody).cfg = s.cfg := rfl
@[simp] theorem State.drawBody_cur : (s.drawBody).cur = s.cur := rfl
@[simp] theorem State.drawBody_prev : (s.drawBody).prev = s.cur := rfl
@[simp] theorem State.drawBody_dirty : (s.drawBody).dirty = false := rfl
@[simp] theorem State.drawBody_port : (s.drawBody).port = s.port := rfl
@[simp] theorem State.drawBody_intake : (s.drawBody).intake = s.intake := rfl
@[simp] theorem State.drawBody_out : (s.drawBody).out = s.out ++ ((drawBatches s).flatMap serialize).map PinEvent.code := rfl
@[simp] theorem State.drawBody_replayed : (s.drawBody).replayed = s.replayed := rfl
@[simp] theorem State.drawBody_response : (s.drawBody).response = s.response := rfl
@[simp] theorem State.drawBody_responses : (s.drawBody).responses = s.responses := rfl
@[simp] theorem State.drawBody_cs : (s.drawBody).cs = s.cs := rfl
@[simp] theorem State.drawBody_clk : (s.drawBody).clk = s.clk := rfl
@[simp] theorem State.drawBody_din : (s.drawBody).din = s.din := rfl
@[simp] theorem State.drawBody_chips : (s.drawBody).chips = s.chips := rfl
@[simp] theorem State.drawBody_freeIndex : (s.drawBody).freeIndex = s.freeIndex := rfl

end Sys2Proof.Machine
end

