-- ==== Sys2Proof/Laws/Ops.lean ====
section
/-! SUPPORT. One lemma per shared operation that says once everything it can do, for the provers to cite instead of
unfolding it. -/

namespace Sys2Proof.Machine

/-! The block's operations. -/

/-- DrawBody emits the batches of the changed rows, copies `cur` to `prev`, clears `dirty`, and does nothing else. -/
theorem State.drawBody_eq (s : State) :
    s.drawBody =
      { s with
        out := s.out ++ ((drawBatches s).flatMap serialize).map PinEvent.code
        prev := s.cur
        dirty := false } := rfl

/-- Sending a list of writes to all displays only appends their batches to the stream, in order. -/
theorem foldl_sendToAll (ws : List RegWrite) (s : State) :
    ws.foldl State.sendToAll s =
      { s with
        out := s.out ++ (ws.flatMap (fun w => serialize (List.replicate s.cfg.n w))).map PinEvent.code } := by
  induction ws generalizing s with
  | nil => simp
  | cons w ws ih => simp [ih, State.sendToAll, State.emitAll]

/-- The bit b of `setBit word b on` is `on`, and every other bit is the word's. -/
theorem setBit_getLsbD (word : DisplayWord) (b k : Nat) (on : Bool) (hb : b < 64) :
    (setBit word b on).getLsbD k = if k = b then on else word.getLsbD k := by
  cases on <;> by_cases hk : k < 64 <;> simp [setBit, hk] <;> grind

/-- Construction answers the construction state of a legal geometry, or InvalidGeometry with its arguments. -/
theorem construct_cases (dr dc v h : Int) (checked : Bool) :
    (∃ g : Cfg, construct dr dc v h checked = .ok (State.initial g) ∧ g.legal = true ∧
      (g.dr : Int) = dr ∧ (g.dc : Int) = dc ∧ (g.v : Int) = v ∧ (g.h : Int) = h ∧ g.checked = checked) ∨
    construct dr dc v h checked = .error (.invalidGeometry dr dc v h) := by
  unfold construct
  split
  · rename_i hc
    obtain ⟨h1, h2, h3, h4, h5, h6, h7, h8⟩ := hc
    lift dr to Nat using by omega
    lift dc to Nat using by omega
    lift v to Nat using by omega
    lift h to Nat using by omega
    refine .inl ⟨_, rfl, ?_, by simp, by simp, by simp, by simp, rfl⟩
    simp only [Cfg.legal, Cfg.tr, Cfg.tc, Config.coordW] at *
    norm_cast at *
    simp_all
  · exact .inr rfl

/-! The cascade. -/

@[simp] theorem shiftChain_length (v : Bool) (cs : List Chip) : (shiftChain v cs).length = cs.length := by
  induction cs generalizing v with
  | nil => rfl
  | cons c cs ih => simp [shiftChain, ih]

@[simp] theorem latchAll_length (cs : List Chip) : (latchAll cs).length = cs.length := by simp [latchAll]

@[simp] theorem performFirst_length (f : Chip → Chip) (cs : List Chip) : (performFirst f cs).length = cs.length := by
  induction cs with
  | nil => rfl
  | cons c cs ih => unfold performFirst; split <;> simp [ih]

/-- A latched word keeps 12 bits of the shift register. -/
theorem writeField_lt (w : PktWord) : (writeField w).toNat < 2 ^ 12 := by
  have : (writeField w).toNat = w.toNat &&& 0x0FFF := by simp [writeField]
  rw [this]
  exact lt_of_le_of_lt Nat.and_le_right (by decide)

/-- A clock pulse changes no chip's registers and no chip's latch: only the shift registers. -/
theorem shiftChain_keeps (v : Bool) (cs : List Chip) :
    (shiftChain v cs).map (fun c => { c with shift := 0 }) = cs.map (fun c => { c with shift := 0 }) := by
  induction cs generalizing v with
  | nil => rfl
  | cons c cs ih => simpa [shiftChain] using ih _

/-- No chip has a write to perform exactly if every latch is empty. -/
theorem latchedWord_eq_none (cs : List Chip) : latchedWord cs = none ↔ ∀ c ∈ cs, c.latched = none := by
  induction cs with
  | nil => simp [latchedWord]
  | cons c cs ih => cases h : c.latched <;> simp [latchedWord, h, ih]

/-- The performing chip: chips with empty latches, then one with a latched word, then any others. -/
theorem latchedWord_append (pre post : List Chip) (c : Chip) (w : PktWord)
    (hpre : ∀ x ∈ pre, x.latched = none) (hc : c.latched = some w) :
    latchedWord (pre ++ c :: post) = some w := by
  induction pre with
  | nil => simp [latchedWord, hc]
  | cons x xs ih => simp_all [latchedWord]

/-- The performing chip alone is changed, and its latch is emptied. -/
theorem performFirst_append (f : Chip → Chip) (pre post : List Chip) (c : Chip) (w : PktWord)
    (hpre : ∀ x ∈ pre, x.latched = none) (hc : c.latched = some w) :
    performFirst f (pre ++ c :: post) = pre ++ { f c with latched := none } :: post := by
  induction pre with
  | nil => simp [performFirst, hc]
  | cons x xs ih => simp_all [performFirst]

/-- If some chip has a write to perform, the chips split as `performFirst_append` asks. -/
theorem latchedWord_split (cs : List Chip) (w : PktWord) (h : latchedWord cs = some w) :
    ∃ pre c post, cs = pre ++ c :: post ∧ (∀ x ∈ pre, x.latched = none) ∧ c.latched = some w := by
  induction cs with
  | nil => simp [latchedWord] at h
  | cons x xs ih =>
    cases hx : x.latched with
    | some v =>
      have : v = w := by simpa [latchedWord, hx] using h
      exact ⟨[], x, xs, rfl, by simp, by rw [hx, this]⟩
    | none =>
      obtain ⟨pre, c, post, rfl, hp, hc⟩ := ih (by simpa [latchedWord, hx] using h)
      exact ⟨x :: pre, c, post, rfl, by simp_all, hc⟩

/-- A register write with nothing latched changes nothing. -/
theorem State.perform_none (s : State) (f : Nat → Chip → Chip) (h : latchedWord s.chips = none) :
    s.perform f = s := by simp [State.perform, h]

/-- A register write changes the performing chip and the draw counter, and nothing else. -/
theorem State.perform_some (s : State) (f : Nat → Chip → Chip) (pre post : List Chip) (c : Chip) (w : PktWord)
    (hs : s.chips = pre ++ c :: post) (hpre : ∀ x ∈ pre, x.latched = none) (hc : c.latched = some w) :
    s.perform f =
      { s with
        chips := pre ++ { f s.freeIndex c with latched := none } :: post
        freeIndex := s.freeIndex + 1 } := by
  simp [State.perform, hs, latchedWord_append pre post c w hpre hc, performFirst_append _ pre post c w hpre hc]

/-- A control-register write keeps the chip's shift register, latch and Digit registers. -/
theorem Chip.controlWrite_keeps (r : ControlReg) (d : Byte) (k : Nat) (c : Chip) :
    (c.controlWrite r d k).shift = c.shift ∧ (c.controlWrite r d k).latched = c.latched ∧
      (c.controlWrite r d k).digits = c.digits := by
  cases r <;> simp only [Chip.controlWrite] <;> (repeat' split) <;>
    simp [Chip.setControl, Chip.freeControls]

/-- A control register written with a value the spec states or names holds that value. -/
theorem Chip.controlWrite_holds (r : ControlReg) (d : Byte) (k : Nat) (c : Chip)
    (h : d = r.resetValue ∨ r.named d = true) : (c.controlWrite r d k).control r = d := by
  simp only [Chip.controlWrite]
  split
  · cases r <;> rfl
  · simp_all
    cases r <;> rfl

@[simp] theorem State.perform_cfg (s : State) (f : Nat → Chip → Chip) : (s.perform f).cfg = s.cfg := by
  unfold State.perform; split <;> rfl

@[simp] theorem State.perform_cur (s : State) (f : Nat → Chip → Chip) : (s.perform f).cur = s.cur := by
  unfold State.perform; split <;> rfl

@[simp] theorem State.perform_prev (s : State) (f : Nat → Chip → Chip) : (s.perform f).prev = s.prev := by
  unfold State.perform; split <;> rfl

@[simp] theorem State.perform_dirty (s : State) (f : Nat → Chip → Chip) : (s.perform f).dirty = s.dirty := by
  unfold State.perform; split <;> rfl

@[simp] theorem State.perform_port (s : State) (f : Nat → Chip → Chip) : (s.perform f).port = s.port := by
  unfold State.perform; split <;> rfl

@[simp] theorem State.perform_intake (s : State) (f : Nat → Chip → Chip) : (s.perform f).intake = s.intake := by
  unfold State.perform; split <;> rfl

@[simp] theorem State.perform_out (s : State) (f : Nat → Chip → Chip) : (s.perform f).out = s.out := by
  unfold State.perform; split <;> rfl

@[simp] theorem State.perform_replayed (s : State) (f : Nat → Chip → Chip) : (s.perform f).replayed = s.replayed := by
  unfold State.perform; split <;> rfl

@[simp] theorem State.perform_response (s : State) (f : Nat → Chip → Chip) : (s.perform f).response = s.response := by
  unfold State.perform; split <;> rfl

@[simp] theorem State.perform_responses (s : State) (f : Nat → Chip → Chip) : (s.perform f).responses = s.responses := by
  unfold State.perform; split <;> rfl

@[simp] theorem State.perform_cs (s : State) (f : Nat → Chip → Chip) : (s.perform f).cs = s.cs := by
  unfold State.perform; split <;> rfl

@[simp] theorem State.perform_clk (s : State) (f : Nat → Chip → Chip) : (s.perform f).clk = s.clk := by
  unfold State.perform; split <;> rfl

@[simp] theorem State.perform_din (s : State) (f : Nat → Chip → Chip) : (s.perform f).din = s.din := by
  unfold State.perform; split <;> rfl

/-! The step. -/

/-- Everything an instruction can do: it only answers; it writes one LED; it draws; it resets; it emits one batch; it takes
a payload word; a chip writes a register; a line is driven. -/
theorem exec_cases (i : Instr) (s : State) :
    (∃ r, exec i s = .next (s.respond r)) ∨
    (∃ row col on, i = .setled row col on ∧ s.cfg.inRange row col = true ∧
      exec i s = .next (((s.setCur (s.displayAt row col)
        (setBit (s.cur.getD (s.displayAt row col) 0) (s.bitAt row col) on)).markDirty).respond (.ok none))) ∨
    (i = .draw ∧ s.dirty = true ∧ exec i s = .next (s.drawBody.respond (.ok none))) ∨
    (i = .reset ∧ exec i s =
      .next (((initWrites.foldl State.sendToAll s).blank.markDirty).drawBody.respond (.ok none))) ∨
    (∃ batch, batch.length = s.cfg.n ∧ exec i s = .next ((s.emitAll (serialize batch)).respond (.ok none))) ∨
    (∃ w, s.intake ≠ [] ∧ exec i s = .next (s.takePayload w)) ∨
    (∃ f, exec i s = .next (s.perform f)) ∨
    (∃ v, exec i s = .next (s.driveCs v)) ∨
    (∃ v, exec i s = .next (s.driveClk v)) ∨
    (∃ v, exec i s = .next (s.driveDin v)) := by
  cases i with
  | setled row col on =>
    by_cases h : s.cfg.inRange row col = true
    · exact .inr (.inl ⟨row, col, on, rfl, h, by simp [exec, execSetled, h]⟩)
    · by_cases hc : s.cfg.checked = true
      · exact .inl ⟨_, by simp [exec, execSetled, h, hc]; rfl⟩
      · exact .inl ⟨_, by simp [exec, execSetled, h, hc]; rfl⟩
  | getled row col =>
    by_cases h : s.cfg.inRange row col = true
    · exact .inl ⟨_, by simp [exec, execGetled, h]; rfl⟩
    · by_cases hc : s.cfg.checked = true
      · exact .inl ⟨_, by simp [exec, execGetled, h, hc]; rfl⟩
      · exact .inl ⟨_, by simp [exec, execGetled, h, hc]; rfl⟩
  | draw =>
    by_cases h : s.dirty = true
    · exact .inr (.inr (.inl ⟨rfl, h, by simp [exec, execDraw, h]⟩))
    · exact .inl ⟨_, by simp [exec, execDraw, h]; rfl⟩
  | reset => exact .inr (.inr (.inr (.inl ⟨rfl, rfl⟩)))
  | execall a d => exact .inr (.inr (.inr (.inr (.inl ⟨_, List.length_replicate, rfl⟩))))
  | exec batch =>
    by_cases h : batch.length = s.cfg.n
    · exact .inr (.inr (.inr (.inr (.inl ⟨batch, h, by simp [exec, execExec, h]⟩))))
    · exact .inl ⟨_, by simp [exec, execExec, h]; rfl⟩
  | execPayload a d =>
    by_cases h : s.intake = []
    · exact .inl ⟨_, by simp [exec, execExecPayload, h]; rfl⟩
    · exact .inr (.inr (.inr (.inr (.inr (.inl ⟨_, h, by simp [exec, execExecPayload, h]; rfl⟩)))))
  | numeric o => exact .inl ⟨_, rfl⟩
  | illegalOp0 o => exact .inl ⟨_, rfl⟩
  | illegalOp8F o => exact .inl ⟨_, rfl⟩
  | noop d =>
    by_cases h : d = 0
    · exact .inr (.inr (.inr (.inr (.inr (.inr (.inl ⟨_, by simp [exec, execNoop, h]; rfl⟩))))))
    · exact .inr (.inr (.inr (.inr (.inr (.inr (.inl ⟨Chip.freeControls, if_neg h⟩))))))
  | digit0 d => exact .inr (.inr (.inr (.inr (.inr (.inr (.inl ⟨_, rfl⟩))))))
  | digit1 d => exact .inr (.inr (.inr (.inr (.inr (.inr (.inl ⟨_, rfl⟩))))))
  | digit2 d => exact .inr (.inr (.inr (.inr (.inr (.inr (.inl ⟨_, rfl⟩))))))
  | digit3 d => exact .inr (.inr (.inr (.inr (.inr (.inr (.inl ⟨_, rfl⟩))))))
  | digit4 d => exact .inr (.inr (.inr (.inr (.inr (.inr (.inl ⟨_, rfl⟩))))))
  | digit5 d => exact .inr (.inr (.inr (.inr (.inr (.inr (.inl ⟨_, rfl⟩))))))
  | digit6 d => exact .inr (.inr (.inr (.inr (.inr (.inr (.inl ⟨_, rfl⟩))))))
  | digit7 d => exact .inr (.inr (.inr (.inr (.inr (.inr (.inl ⟨_, rfl⟩))))))
  | decodemode d => exact .inr (.inr (.inr (.inr (.inr (.inr (.inl ⟨_, rfl⟩))))))
  | intensity d => exact .inr (.inr (.inr (.inr (.inr (.inr (.inl ⟨_, rfl⟩))))))
  | scanlimit d => exact .inr (.inr (.inr (.inr (.inr (.inr (.inl ⟨_, rfl⟩))))))
  | shutdown d => exact .inr (.inr (.inr (.inr (.inr (.inr (.inl ⟨_, rfl⟩))))))
  | addrD d => exact .inr (.inr (.inr (.inr (.inr (.inr (.inl ⟨_, rfl⟩))))))
  | addrE d => exact .inr (.inr (.inr (.inr (.inr (.inr (.inl ⟨_, rfl⟩))))))
  | displaytest d => exact .inr (.inr (.inr (.inr (.inr (.inr (.inl ⟨_, rfl⟩))))))
  | csh => exact .inr (.inr (.inr (.inr (.inr (.inr (.inr (.inl ⟨_, rfl⟩)))))))
  | csl => exact .inr (.inr (.inr (.inr (.inr (.inr (.inr (.inl ⟨_, rfl⟩)))))))
  | ckh => exact .inr (.inr (.inr (.inr (.inr (.inr (.inr (.inr (.inl ⟨_, rfl⟩))))))))
  | ckl => exact .inr (.inr (.inr (.inr (.inr (.inr (.inr (.inr (.inl ⟨_, rfl⟩))))))))
  | dh => exact .inr (.inr (.inr (.inr (.inr (.inr (.inr (.inr (.inr ⟨_, rfl⟩))))))))
  | dl => exact .inr (.inr (.inr (.inr (.inr (.inr (.inr (.inr (.inr ⟨_, rfl⟩))))))))

/-- Every instruction's meaning answers a next state: no arm stops. -/
theorem exec_goes (i : Instr) (s : State) : Goes (exec i s) := by
  rcases exec_cases i s with ⟨_, h⟩ | ⟨_, _, _, _, _, h⟩ | ⟨_, _, h⟩ | ⟨_, h⟩ | ⟨_, _, h⟩ | ⟨_, _, h⟩ | ⟨_, h⟩ |
    ⟨_, h⟩ | ⟨_, h⟩ | ⟨_, h⟩ <;> exact ⟨_, h⟩

/-- Everything the step on a command's words can be. -/
theorem fetchCommand_cases (w : CmdWord) (ws : List CmdWord) (s : State) :
    (∃ i more, decodeCommand (w :: ws) = .ok (i, more) ∧
      fetchCommand w ws s = .run i { s with intake := [], port := more ++ s.port }) ∨
    (decodeCommand (w :: ws) = .error .incomplete ∧
      fetchCommand w ws s = if s.intake.isEmpty then .go { s with intake := [w] } else fetchPayload s) ∨
    fetchCommand w ws s = .go (State.raise { s with intake := [] } (.illegalCommand w)) := by
  unfold fetchCommand
  split
  · rename_i i more h
    exact .inl ⟨i, more, h, rfl⟩
  · rename_i h
    exact .inr (.inl ⟨h, rfl⟩)
  · exact .inr (.inr rfl)

/-- Everything the intake of a payload word can be. -/
theorem fetchPayload_cases (s : State) :
    (s.port = [] ∧ fetchPayload s = .go s) ∨
    (∃ w rest, s.port = w :: rest ∧
      ((∃ d, decodePayload w = some d ∧ fetchPayload s = .run (.execPayload d.addr d.data) { s with port := rest }) ∨
        (decodePayload w = none ∧ fetchPayload s = .go (State.takePayload { s with port := rest } w)))) := by
  unfold fetchPayload
  cases hp : s.port with
  | nil => exact .inl ⟨rfl, rfl⟩
  | cons w rest =>
    refine .inr ⟨w, rest, rfl, ?_⟩
    cases hd : decodePayload w with
    | some d => exact .inl ⟨d, rfl, by simp [hd]⟩
    | none => exact .inr ⟨rfl, by simp [hd]⟩

/-- Everything the block's own turn can be. -/
theorem fetchBlock_cases (s : State) :
    (s.intake = [] ∧ s.port = [] ∧ fetchBlock s = .go s) ∨
    (∃ w rest, s.intake = [] ∧ s.port = w :: rest ∧
      fetchBlock s = fetchCommand w [] { s with port := rest }) ∨
    (∃ w ws, s.intake = w :: ws ∧ fetchBlock s = fetchCommand w ws s) := by
  unfold fetchBlock
  cases hi : s.intake with
  | cons w ws => exact .inr (.inr ⟨w, ws, rfl, rfl⟩)
  | nil =>
    cases hp : s.port with
    | nil => exact .inl ⟨rfl, rfl, rfl⟩
    | cons w rest => exact .inr (.inl ⟨w, rest, rfl, rfl, rfl⟩)

/-- Everything a step can be, in the order of its turns: a chip's write, the executor's event, a response, the block. -/
theorem step_cases (s : State) :
    (∃ w, latchedWord s.chips = some w ∧
      ((∃ i, decodePacket w = .ok i ∧ step s = exec i s) ∨ step s = .fault (.reservedPacketBits w))) ∨
    (latchedWord s.chips = none ∧ ∃ c, s.out[s.replayed]? = some c ∧
      ((∃ i, decodePin c = .ok i ∧ step s = exec i { s with replayed := s.replayed + 1 }) ∨
        step s = .fault (.reservedPinCode c))) ∨
    (latchedWord s.chips = none ∧ s.out[s.replayed]? = none ∧ ∃ r, s.response = some r ∧
      step s = .next (s.deliver r)) ∨
    (s.blockTurn ∧ fetch s = fetchBlock s) := by
  simp only [step, fetch, State.blockTurn]
  cases h1 : latchedWord s.chips with
  | some w =>
    refine .inl ⟨w, rfl, ?_⟩
    simp only [fetchPacket]
    cases h : decodePacket w with
    | ok i => exact .inl ⟨i, rfl, rfl⟩
    | error e => exact .inr rfl
  | none =>
    cases h2 : s.out[s.replayed]? with
    | some c =>
      refine .inr (.inl ⟨rfl, c, rfl, ?_⟩)
      simp only [fetchPin]
      cases h : decodePin c with
      | ok i => exact .inl ⟨i, rfl, rfl⟩
      | error e => exact .inr rfl
    | none =>
      cases h3 : s.response with
      | some r => exact .inr (.inr (.inl ⟨rfl, rfl, r, rfl, rfl⟩))
      | none => exact .inr (.inr (.inr ⟨⟨rfl, rfl, rfl⟩, rfl⟩))

end Sys2Proof.Machine
end

