-- ==== Sys2Proof/Laws/Diff.lean ====
section
/-! SUPPORT. The lemmas of the operand forms, the diff engine and the serializer, one for each operation. -/

namespace Sys2Proof.Machine

/-! Operand forms. -/

/-- The range test, as inequalities (R131). -/
theorem Cfg.inRange_iff (g : Cfg) (row col : Int) :
    g.inRange row col = true ↔ 0 ≤ row ∧ row < g.tr ∧ 0 ≤ col ∧ col < g.tc := by
  simp [Cfg.inRange, and_assoc]

/-- The legal geometries, as inequalities (R6, R21). -/
theorem Cfg.legal_iff (g : Cfg) :
    g.legal = true ↔ 1 ≤ g.dr ∧ g.dr ≤ 8 ∧ 1 ≤ g.dc ∧ g.dc ≤ 8 ∧ 1 ≤ g.v ∧ 1 ≤ g.h ∧ g.coordW = 12 ∧
      g.v * g.dr ≤ 4096 ∧ g.h * g.dc ≤ 4096 := by
  simp only [Cfg.legal, Bool.and_eq_true, decide_eq_true_eq, and_assoc]
  rfl

/-- A legal display word has at most 64 significant bits. -/
theorem Cfg.w_le (g : Cfg) (h : g.legal = true) : g.w ≤ 64 := by
  obtain ⟨_, h1, _, h2, _⟩ := (Cfg.legal_iff g).1 h
  exact Nat.mul_le_mul h1 h2

/-- The bits of MASK(k). -/
theorem mask_getLsbD (k j : Nat) (hk : k ≤ 8) : (mask k).getLsbD j = decide (j < k) := by
  have : (mask k).toNat = 2 ^ k - 1 := by interval_cases k <;> decide
  rw [← BitVec.testBit_toNat, this, Nat.testBit_two_pow_sub_one]

/-- The bits of a row: bit c of row r is bit r·DC + c of the word, and nothing from DC up (R23). -/
theorem rowBits_getLsbD (dc r j : Nat) (w : DisplayWord) (hdc : dc ≤ 8) :
    (rowBits dc r w).getLsbD j = (decide (j < dc) && w.getLsbD (r * dc + j)) := by
  simp [rowBits, mask_getLsbD dc j hdc, Bool.and_comm]

/-- Writing a bit below W keeps the word below 2^W (R30 (a)). -/
theorem setBit_lt (w : DisplayWord) (b W : Nat) (on : Bool) (h : w.toNat < 2 ^ W) (hb : b < W) (hW : W ≤ 64) :
    (setBit w b on).toNat < 2 ^ W := by
  apply Nat.lt_pow_two_of_testBit
  intro k hk
  rw [BitVec.testBit_toNat, setBit_getLsbD w b k on (by omega), if_neg (by omega), ← BitVec.testBit_toNat]
  exact Nat.testBit_lt_two_pow (lt_of_lt_of_le h (Nat.pow_le_pow_right (by decide) hk))

/-! The diff engine. -/

/-- A register write is in ChangedRows exactly if it is the write of a row that changed (R134). -/
theorem mem_changedRows (g : Cfg) (cur prev : DisplayWord) (w : RegWrite) :
    w ∈ changedRows g cur prev ↔ ∃ r < g.dr, rowChanged g.dc cur prev r = true ∧ rowWrite g.dc cur r = w := by
  simp [changedRows, and_assoc]

/-- Every list is at most stepCount long, and stepCount is no longer than the longest (R136). -/
theorem stepCount_le_iff (ls : List (List RegWrite)) (m : Nat) :
    stepCount ls ≤ m ↔ ∀ l ∈ ls, l.length ≤ m := by
  induction ls with
  | nil => simp [stepCount]
  | cons l ls ih => simp_all [stepCount]

@[simp] theorem stepBatch_length (ls : List (List RegWrite)) (k : Nat) : (stepBatch ls k).length = ls.length := by
  simp [stepBatch]

@[simp] theorem drawBatches_length (s : State) : (drawBatches s).length = stepCount (changeLists s) := by
  simp [drawBatches]

@[simp] theorem changeLists_length (s : State) : (changeLists s).length = min s.cur.length s.prev.length := by
  simp [changeLists]

/-- InitWrites as addresses and data (R142). -/
theorem initWrites_eq :
    initWrites = [⟨0xF, 0x00⟩, ⟨0x9, 0x00⟩, ⟨0xB, 0x07⟩, ⟨0xA, 0x00⟩, ⟨0xC, 0x01⟩] := rfl

/-- The write of a row as an address and data (R135). -/
theorem rowWrite_eq (dc : Nat) (cur : DisplayWord) (r : Nat) :
    rowWrite dc cur r = ⟨1 + r, (rowBits dc r cur).setWidth 8⟩ := rfl

/-- The NoOp padding write (R101). -/
theorem noopWrite_eq : noopWrite = ⟨0, 0⟩ := rfl

/-- The named values of the control registers as data (R111 to R114). -/
theorem ControlReg.named_iff (r : ControlReg) (d : Byte) :
    r.named d = true ↔
      match r with
      | .decodeMode => d = 0x00 ∨ d = 0x01 ∨ d = 0x0F ∨ d = 0xFF
      | .intensity => False
      | .scanLimit => d.toNat ≤ 7
      | .shutdown => d = 0x00 ∨ d = 0x01
      | .displayTest => d = 0x00 ∨ d = 0x01 := by
  cases r <;> revert d <;> decide

/-! The packets and the serializer. -/

/-- A packet as a number (R71). -/
theorem packet_toNat (w : RegWrite) : (packet w).toNat = w.addr % 16 * 256 + w.data.toNat := by
  have := w.data.isLt
  simp only [packet, BitVec.toNat_ofNat]
  omega

/-- Packet bits [15:12] are 0 (R77 (f)). -/
theorem packet_lt (w : RegWrite) : (packet w).toNat < 2 ^ 12 := by
  have := w.data.isLt
  rw [packet_toNat]
  omega

@[simp] theorem packetBits_length (p : PktWord) : (packetBits p).length = 16 := by simp [packetBits]

/-- Every code the block hands over names a pin event (R72). -/
theorem PinEvent.code_lt (e : PinEvent) : e.code.toNat < 6 := by cases e <;> decide

/-- A bit at the level already emitted costs a clock pulse only (R172). -/
theorem clockBits_same (v : Bool) (vs : List Bool) :
    clockBits (some v) (v :: vs) = .ckh :: .ckl :: clockBits (some v) vs := by simp [clockBits]

/-- A bit at another level, or the first bit of a call, gets its data event before its clock pulse (R172). -/
theorem clockBits_change (last : Option Bool) (v : Bool) (vs : List Bool) (h : last ≠ some v) :
    clockBits last (v :: vs) = dataEvent v :: .ckh :: .ckl :: clockBits (some v) vs := by simp [clockBits, h]

end Sys2Proof.Machine
end

