-- ==== Sys2Proof/Laws/PerInstr.lean ====
section
/-! SUPPORT. Statements made per instruction. `TableRow`: the encoding of every instruction carries the fixed bits of its
row of the opcode table. -/

namespace Sys2Proof.Laws

/-- The fixed field of the instruction's row of the opcode table: its high bit, its low bit, its value. -/
def TableRow.fixed : Instr → Nat × Nat × Nat
  | .setled _ _ _ => (31, 25, 0x8)
  | .getled _ _ => (31, 24, 0x20)
  | .draw => (31, 0, 0x30000000)
  | .reset => (31, 0, 0x40000000)
  | .execall _ _ => (31, 16, 0x5000)
  | .exec _ => (31, 28, 0x6)
  | .execPayload _ _ => (31, 16, 0x0)
  | .numeric _ => (31, 28, 0x7)
  | .illegalOp0 _ => (31, 28, 0x0)
  | .illegalOp8F _ => (31, 31, 0x1)
  | .noop _ => (15, 8, 0x0)
  | .digit0 _ => (15, 8, 0x1)
  | .digit1 _ => (15, 8, 0x2)
  | .digit2 _ => (15, 8, 0x3)
  | .digit3 _ => (15, 8, 0x4)
  | .digit4 _ => (15, 8, 0x5)
  | .digit5 _ => (15, 8, 0x6)
  | .digit6 _ => (15, 8, 0x7)
  | .digit7 _ => (15, 8, 0x8)
  | .decodemode _ => (15, 8, 0x9)
  | .intensity _ => (15, 8, 0xA)
  | .scanlimit _ => (15, 8, 0xB)
  | .shutdown _ => (15, 8, 0xC)
  | .addrD _ => (15, 8, 0xD)
  | .addrE _ => (15, 8, 0xE)
  | .displaytest _ => (15, 8, 0xF)
  | .csh => (2, 0, 0x0)
  | .csl => (2, 0, 0x1)
  | .ckh => (2, 0, 0x2)
  | .ckl => (2, 0, 0x3)
  | .dh => (2, 0, 0x4)
  | .dl => (2, 0, 0x5)

/-- A field of the first word of an encoded instruction. -/
def TableRow.field (hi lo : Nat) : Code → Option Nat
  | .command [] => none
  | .command (w :: _) => some (bits w hi lo)
  | .payload w => some (bits w hi lo)
  | .packet w => some (bits w hi lo)
  | .pin c => some (bits c hi lo)

/-- The encoding carries the row's fixed bits. -/
def TableRow.Statement (i : Instr) : Prop :=
  TableRow.field (TableRow.fixed i).1 (TableRow.fixed i).2.1 (encode i) = some (TableRow.fixed i).2.2

/-- A field of a word given as a number. -/
theorem bits_ofNat (n x hi lo : Nat) :
    bits (BitVec.ofNat n x) hi lo = x % 2 ^ n / 2 ^ lo % 2 ^ (hi + 1 - lo) := by
  simp [bits]

theorem TableRow.setled (row : Int) (col : Int) (on : Bool) : TableRow.Statement (.setled row col on) := by
  simp only [TableRow.Statement, TableRow.field, TableRow.fixed, encode, bits_ofNat, commandWord, coordFields, Option.some.injEq]
  cases on <;> simp only [Bool.toNat_true, Bool.toNat_false] <;> omega

theorem TableRow.getled (row : Int) (col : Int) : TableRow.Statement (.getled row col) := by
  simp only [TableRow.Statement, TableRow.field, TableRow.fixed, encode, bits_ofNat, commandWord, coordFields, Option.some.injEq]
  omega

theorem TableRow.draw : TableRow.Statement (.draw) := by
  unfold TableRow.Statement
  decide

theorem TableRow.reset : TableRow.Statement (.reset) := by
  unfold TableRow.Statement
  decide

theorem TableRow.execall (addr : Nat) (data : Byte) : TableRow.Statement (.execall addr data) := by
  simp only [TableRow.Statement, TableRow.field, TableRow.fixed, encode, bits_ofNat, commandWord, writeFields, Option.some.injEq]
  omega

theorem TableRow.exec (batch : List RegWrite) : TableRow.Statement (.exec batch) := by
  simp only [TableRow.Statement, TableRow.field, TableRow.fixed, encode, bits_ofNat, commandWord, Option.some.injEq]
  omega

theorem TableRow.execPayload (addr : Nat) (data : Byte) : TableRow.Statement (.execPayload addr data) := by
  simp only [TableRow.Statement, TableRow.field, TableRow.fixed, encode, bits_ofNat, encodePayload, writeFields, Option.some.injEq]
  omega

theorem TableRow.numeric (operand : BitVec 28) : TableRow.Statement (.numeric operand) := by
  simp only [TableRow.Statement, TableRow.field, TableRow.fixed, encode, bits_ofNat, commandWord, Option.some.injEq]
  omega

theorem TableRow.illegalOp0 (operand : BitVec 28) : TableRow.Statement (.illegalOp0 operand) := by
  simp only [TableRow.Statement, TableRow.field, TableRow.fixed, encode, bits_ofNat, commandWord, Option.some.injEq]
  omega

theorem TableRow.illegalOp8F (operand : BitVec 31) : TableRow.Statement (.illegalOp8F operand) := by
  simp only [TableRow.Statement, TableRow.field, TableRow.fixed, encode, bits_ofNat, Option.some.injEq]
  omega

theorem TableRow.noop (data : Byte) : TableRow.Statement (.noop data) := by
  simp only [TableRow.Statement, TableRow.field, TableRow.fixed, encode, bits_ofNat, packet, Option.some.injEq]
  omega

theorem TableRow.digit0 (data : Byte) : TableRow.Statement (.digit0 data) := by
  simp only [TableRow.Statement, TableRow.field, TableRow.fixed, encode, bits_ofNat, packet, Option.some.injEq]
  omega

theorem TableRow.digit1 (data : Byte) : TableRow.Statement (.digit1 data) := by
  simp only [TableRow.Statement, TableRow.field, TableRow.fixed, encode, bits_ofNat, packet, Option.some.injEq]
  omega

theorem TableRow.digit2 (data : Byte) : TableRow.Statement (.digit2 data) := by
  simp only [TableRow.Statement, TableRow.field, TableRow.fixed, encode, bits_ofNat, packet, Option.some.injEq]
  omega

theorem TableRow.digit3 (data : Byte) : TableRow.Statement (.digit3 data) := by
  simp only [TableRow.Statement, TableRow.field, TableRow.fixed, encode, bits_ofNat, packet, Option.some.injEq]
  omega

theorem TableRow.digit4 (data : Byte) : TableRow.Statement (.digit4 data) := by
  simp only [TableRow.Statement, TableRow.field, TableRow.fixed, encode, bits_ofNat, packet, Option.some.injEq]
  omega

theorem TableRow.digit5 (data : Byte) : TableRow.Statement (.digit5 data) := by
  simp only [TableRow.Statement, TableRow.field, TableRow.fixed, encode, bits_ofNat, packet, Option.some.injEq]
  omega

theorem TableRow.digit6 (data : Byte) : TableRow.Statement (.digit6 data) := by
  simp only [TableRow.Statement, TableRow.field, TableRow.fixed, encode, bits_ofNat, packet, Option.some.injEq]
  omega

theorem TableRow.digit7 (data : Byte) : TableRow.Statement (.digit7 data) := by
  simp only [TableRow.Statement, TableRow.field, TableRow.fixed, encode, bits_ofNat, packet, Option.some.injEq]
  omega

theorem TableRow.decodemode (data : Byte) : TableRow.Statement (.decodemode data) := by
  simp only [TableRow.Statement, TableRow.field, TableRow.fixed, encode, bits_ofNat, packet, Option.some.injEq]
  omega

theorem TableRow.intensity (data : Byte) : TableRow.Statement (.intensity data) := by
  simp only [TableRow.Statement, TableRow.field, TableRow.fixed, encode, bits_ofNat, packet, Option.some.injEq]
  omega

theorem TableRow.scanlimit (data : Byte) : TableRow.Statement (.scanlimit data) := by
  simp only [TableRow.Statement, TableRow.field, TableRow.fixed, encode, bits_ofNat, packet, Option.some.injEq]
  omega

theorem TableRow.shutdown (data : Byte) : TableRow.Statement (.shutdown data) := by
  simp only [TableRow.Statement, TableRow.field, TableRow.fixed, encode, bits_ofNat, packet, Option.some.injEq]
  omega

theorem TableRow.addrD (data : Byte) : TableRow.Statement (.addrD data) := by
  simp only [TableRow.Statement, TableRow.field, TableRow.fixed, encode, bits_ofNat, packet, Option.some.injEq]
  omega

theorem TableRow.addrE (data : Byte) : TableRow.Statement (.addrE data) := by
  simp only [TableRow.Statement, TableRow.field, TableRow.fixed, encode, bits_ofNat, packet, Option.some.injEq]
  omega

theorem TableRow.displaytest (data : Byte) : TableRow.Statement (.displaytest data) := by
  simp only [TableRow.Statement, TableRow.field, TableRow.fixed, encode, bits_ofNat, packet, Option.some.injEq]
  omega

theorem TableRow.csh : TableRow.Statement (.csh) := by
  unfold TableRow.Statement
  decide

theorem TableRow.csl : TableRow.Statement (.csl) := by
  unfold TableRow.Statement
  decide

theorem TableRow.ckh : TableRow.Statement (.ckh) := by
  unfold TableRow.Statement
  decide

theorem TableRow.ckl : TableRow.Statement (.ckl) := by
  unfold TableRow.Statement
  decide

theorem TableRow.dh : TableRow.Statement (.dh) := by
  unfold TableRow.Statement
  decide

theorem TableRow.dl : TableRow.Statement (.dl) := by
  unfold TableRow.Statement
  decide

end Sys2Proof.Laws
end

