-- ==== Sys2Proof/Tests/Slice0.lean ====
section
/-! SUPPORT. Tests: the words of the encoding tables, the WellFormed checks, one small step per instruction, and a witness
for every statement with hypotheses. Expected results come from spec/95_test_vectors.md or are computed by hand from
the rules. -/

namespace Sys2Proof.Tests

open Sys2Proof.Machine

/-- An instance of the given geometry right after construction. -/
def grid (dr dc v h : Nat) (checked : Bool) : State :=
  State.initial { dr := dr, dc := dc, v := v, h := h, checked := checked, coordW := 12 }

/-- The next state, or nothing where the machine stops. -/
def next (o : Host.Outcome State Fault Refusal) : Option State :=
  match o with
  | .next t => some t
  | .fault _ => none
  | .refused _ => none

/-- Notation of 95_test_vectors.md: `n` clock pulses. -/
def clk (n : Nat) : List PinEvent := (List.replicate n [PinEvent.ckh, PinEvent.ckl]).flatten

/-! WellFormed refuses what no word can carry. -/

theorem test_wf_row_too_wide : (Instr.setled 4096 0 true).wf = false := by decide
theorem test_wf_row_negative : (Instr.setled (-1) 0 true).wf = false := by decide
theorem test_wf_col_too_wide : (Instr.setled 0 4096 true).wf = false := by decide
theorem test_wf_getled_row : (Instr.getled 4096 0).wf = false := by decide
theorem test_wf_getled_col : (Instr.getled 0 (-1)).wf = false := by decide
theorem test_wf_execall_addr : (Instr.execall 256 0).wf = false := by decide
theorem test_wf_payload_addr : (Instr.execPayload 256 0).wf = false := by decide
theorem test_wf_exec_addr : (Instr.exec [⟨0, 0⟩, ⟨256, 0⟩]).wf = false := by decide
theorem test_wf_exec_count : countFits (2 ^ 28) = false := by decide

/-! Decoding: T-ENC, T-PKT and T-PE, every constructor. -/

theorem test_decode_setled : decode (.command [0x11000009]) = .ok (.setled 0 9 true) := by decide
theorem test_decode_setled_off : decode (.command [0x1000F00F]) = .ok (.setled 15 15 false) := by decide
theorem test_decode_getled : decode (.command [0x20008000]) = .ok (.getled 8 0) := by decide
theorem test_decode_draw : decode (.command [0x30000000]) = .ok .draw := by decide
theorem test_decode_reset : decode (.command [0x40000000]) = .ok .reset := by decide
theorem test_decode_execall : decode (.command [0x50001D00]) = .ok (.execall 0x1D 0x00) := by decide
theorem test_decode_exec :
    decode (.command [0x60000002, 0x00000101, 0x00000000]) = .ok (.exec [⟨0x1, 0x01⟩, ⟨0x0, 0x00⟩]) := by decide
theorem test_decode_payload : decode (.payload 0x000008FF) = .ok (.execPayload 0x8 0xFF) := by decide
theorem test_decode_numeric : decode (.command [0x70000005]) = .ok (.numeric 5) := by decide
theorem test_decode_illegal0 : decode (.command [0x00000000]) = .ok (.illegalOp0 0) := by decide
theorem test_decode_illegal8 : decode (.command [0x80000000]) = .ok (.illegalOp8F 0) := by decide
theorem test_decode_illegalF : decode (.command [0xF0000001]) = .ok (.illegalOp8F 0x70000001) := by decide
theorem test_decode_draw_reserved : decode (.command [0x30000001]) = .error (.reservedBits 0x30000001) := by decide
theorem test_decode_setled_reserved : decode (.command [0x12000000]) = .error (.reservedBits 0x12000000) := by decide
theorem test_decode_getled_reserved : decode (.command [0x21000000]) = .error (.reservedBits 0x21000000) := by decide
theorem test_decode_execall_reserved : decode (.command [0x50010000]) = .error (.reservedBits 0x50010000) := by decide
theorem test_decode_exec_reserved :
    decode (.command [0x60000001, 0x00010101]) = .error (.reservedBits 0x60000001) := by decide
theorem test_decode_exec_incomplete : decode (.command [0x60000002, 0x101]) = .error .incomplete := by decide
theorem test_decode_trailing : decode (.command [0x30000000, 0x30000000]) = .error .trailing := by decide
theorem test_decode_noop : decode (.packet 0x0000) = .ok (.noop 0x00) := by decide
theorem test_decode_digit0 : decode (.packet 0x0101) = .ok (.digit0 0x01) := by decide
theorem test_decode_digit1 : decode (.packet 0x0280) = .ok (.digit1 0x80) := by decide
theorem test_decode_digit2 : decode (.packet 0x03FF) = .ok (.digit2 0xFF) := by decide
theorem test_decode_digit3 : decode (.packet 0x0400) = .ok (.digit3 0x00) := by decide
theorem test_decode_digit4 : decode (.packet 0x053C) = .ok (.digit4 0x3C) := by decide
theorem test_decode_digit5 : decode (.packet 0x0681) = .ok (.digit5 0x81) := by decide
theorem test_decode_digit6 : decode (.packet 0x0710) = .ok (.digit6 0x10) := by decide
theorem test_decode_digit7 : decode (.packet 0x0880) = .ok (.digit7 0x80) := by decide
theorem test_decode_decodemode : decode (.packet 0x09FF) = .ok (.decodemode 0xFF) := by decide
theorem test_decode_intensity : decode (.packet 0x0A0F) = .ok (.intensity 0x0F) := by decide
theorem test_decode_scanlimit : decode (.packet 0x0B07) = .ok (.scanlimit 0x07) := by decide
theorem test_decode_shutdown : decode (.packet 0x0C01) = .ok (.shutdown 0x01) := by decide
theorem test_decode_addrD : decode (.packet 0x0D00) = .ok (.addrD 0x00) := by decide
theorem test_decode_addrE : decode (.packet 0x0E55) = .ok (.addrE 0x55) := by decide
theorem test_decode_displaytest : decode (.packet 0x0F01) = .ok (.displaytest 0x01) := by decide
theorem test_decode_packet_reserved : decode (.packet 0x1101) = .error (.reservedPacketBits 0x1101) := by decide
theorem test_decode_pins :
    [0, 1, 2, 3, 4, 5].map (fun c => decode (.pin c)) =
      [.ok .csh, .ok .csl, .ok .ckh, .ok .ckl, .ok .dh, .ok .dl] := by decide
theorem test_decode_pin_reserved : decode (.pin 6) = .error (.reservedPinCode 6) := by decide
theorem test_table_word_exec : decodeTableWord 32 0x60000001 = some (.exec [⟨0, 0⟩]) := by decide
theorem test_table_word_pin : decodeTableWord 8 5 = some .dl := by decide

/-! Encoding: R79's words. -/

theorem test_encode_setled : encode (.setled 99 0 true) = .command [0x11063000] := by decide
theorem test_encode_exec :
    encode (.exec [⟨0x1, 0x01⟩, ⟨0x0, 0x00⟩]) = .command [0x60000002, 0x00000101, 0x00000000] := by decide
theorem test_encode_illegal : encode (.illegalOp8F 0x70000001) = .command [0xF0000001] := by decide

/-! One step of each instruction. -/

/-- T-ACC, row 2. -/
theorem test_setled_last_bit :
    (next (exec (.setled 7 7 true) (grid 8 8 1 1 false))).map (fun t => (t.cur, t.dirty, t.response)) =
      some ([0x8000000000000000], true, some (.ok none)) := by decide
/-- T-ACC, row 5. -/
theorem test_setled_out_of_range_checked :
    (next (exec (.setled 8 0 true) (grid 8 8 1 1 true))).map (fun t => (t.cur, t.dirty, t.response)) =
      some ([0], false, some (.outOfRange 8 0)) := by decide
/-- E2: coordinate (0, 9) is display 1, bit 1. -/
theorem test_getled_second_display :
    (next (exec (.getled 0 9) { grid 8 8 1 2 false with cur := [0x0, 0x2] })).map (·.response) =
      some (some (.ok (some true))) := by decide
/-- T-ACC, row 9. -/
theorem test_getled_negative_unchecked :
    (next (exec (.getled (-1) 0) (grid 8 8 1 1 false))).map (·.response) = some (some (.ok (some false))) := by decide
/-- T-DRAW D4: two changed rows of a 2 by 3 display. -/
theorem test_draw_two_rows :
    (next (exec .draw { grid 2 3 1 1 false with cur := [0xC], dirty := true })).map (fun t => (t.prev, t.dirty)) =
      some ([0xC], false) := by decide
/-- T-DRAW D6: the two batches of a draw with unequal lists. -/
theorem test_draw_batches :
    drawBatches { grid 2 2 1 2 false with cur := [0x9, 0x4], dirty := true } =
      [[⟨0x1, 0x01⟩, ⟨0x2, 0x01⟩], [⟨0x2, 0x02⟩, ⟨0x0, 0x00⟩]] := by decide
/-- E1: the batch of the source's concrete example. -/
theorem test_serialize_E1 :
    serialize [⟨0x1, 0x01⟩] =
      .csl :: .dl :: (clk 7 ++ .dh :: clk 1 ++ .dl :: clk 7 ++ .dh :: clk 1 ++ [.csh]) := by decide
/-- T-EXEC, row 1: display 1's packet first, and no data event across the packet boundary. -/
theorem test_serialize_two_packets :
    serialize [⟨0x1, 0x01⟩, ⟨0x0, 0x00⟩] =
      .csl :: .dl :: (clk 23 ++ .dh :: clk 1 ++ .dl :: clk 7 ++ .dh :: clk 1 ++ [.csh]) := by decide
set_option maxRecDepth 8000 in
/-- T-RESET-3: six batches, the last of them the clear batch; `cur` and `prev` are 0. -/
theorem test_reset_clears :
    (next (exec .reset { grid 1 1 1 2 false with cur := [1, 0], dirty := true })).map
      (fun t => (t.cur, t.prev, t.dirty, t.out.length)) = some ([0, 0], [0, 0], false, 444) := by decide
/-- T-EXEC, row 5. -/
theorem test_execall_noop :
    (next (exec Asm.noopAll (grid 1 1 1 2 false))).map (fun t => t.out) =
      some ((PinEvent.csl :: .dl :: (clk 32 ++ [.csh])).map PinEvent.code) := by decide
/-- T-PKT, last row: the address is masked on the wire. -/
theorem test_execall_masks : packet ⟨0x1D, 0x00⟩ = 0x0D00 := by decide
/-- T-EXEC, row 2. -/
theorem test_exec_wrong_length :
    (next (exec (.exec [⟨0x1, 0x01⟩]) (grid 1 1 1 2 false))).map (fun t => (t.out, t.response)) =
      some ([], some (.invalidBatch 1)) := by decide
/-- T-EXEC, row 4: 74 events. -/
theorem test_exec_two_writes :
    (next (exec (.exec [⟨0x8, 0xFF⟩, ⟨0x1, 0x01⟩]) (grid 1 1 1 2 false))).map (fun t => t.out.length) = some 74 := by
  decide
/-- R76: the payload word joins the EXEC that is arriving. -/
theorem test_exec_payload :
    (next (exec (.execPayload 0x1 0x07) { grid 1 1 1 2 false with intake := [0x60000002] })).map (·.intake) =
      some [0x60000002, 0x00000107] := by decide
/-- T-ERR, row 1. -/
theorem test_numeric :
    (next (exec (.numeric 5) (grid 8 8 1 1 true))).map (fun t => t.response.map Response.word) =
      some (some 0x00000004) := by decide
/-- T-ERR, row 2, for OP = 0 and OP = 8. -/
theorem test_illegal :
    [exec (.illegalOp0 1) (grid 8 8 1 1 true), exec (.illegalOp8F 2) (grid 8 8 1 1 true)].map
      (fun o => (next o).map (·.response)) =
      [some (some (.illegalCommand 0x00000001)), some (some (.illegalCommand 0x80000002))] := by decide
/-- T-ERR, row 5. -/
theorem test_response_word_value : (Response.ok (some true)).word = 0x00000100 := by decide
/-- T-ENC, last row: both words are taken, then IllegalCommand. -/
theorem test_bad_payload :
    (stepN 3 { grid 8 8 1 1 true with port := [0x60000001, 0x00010101, 0x30000000] }).map
      (fun t => (t.port, t.response)) = some ([0x30000000], some (.illegalCommand 0x60000001)) := by decide

/-- A one-chip machine whose chip has latched a packet. -/
def latchedGrid (w : PktWord) : State :=
  { grid 8 8 1 1 false with chips := [{ Chip.powerUp with latched := some w }] }

/-- What the packet does to the chip of `latchedGrid`, through a whole step. -/
def received (w : PktWord) : Option Chip := ((next (step (latchedGrid w))).map (·.chips)).bind (·[0]?)

theorem test_packet_noop : received 0x0000 = some Chip.powerUp := by decide
theorem test_packet_digit0 : (received 0x0101).map (·.digits[0]) = some 0x01 := by decide
theorem test_packet_digit1 : (received 0x0280).map (·.digits[1]) = some 0x80 := by decide
theorem test_packet_digit2 : (received 0x03FF).map (·.digits[2]) = some 0xFF := by decide
theorem test_packet_digit3 : (received 0x0401).map (·.digits[3]) = some 0x01 := by decide
theorem test_packet_digit4 : (received 0x053C).map (·.digits[4]) = some 0x3C := by decide
theorem test_packet_digit5 : (received 0x0681).map (·.digits[5]) = some 0x81 := by decide
theorem test_packet_digit6 : (received 0x0710).map (·.digits[6]) = some 0x10 := by decide
theorem test_packet_digit7 : (received 0x0880).map (·.digits[7]) = some 0x80 := by decide
theorem test_packet_decodemode : (received 0x09FF).map (·.decodeMode) = some 0xFF := by decide
theorem test_packet_intensity : (received 0x0A00).map (·.intensity) = some 0x00 := by decide
theorem test_packet_scanlimit : (received 0x0B07).map (·.scanLimit) = some 0x07 := by decide
theorem test_packet_shutdown : (received 0x0C01).map (·.shutdown) = some 0x01 := by decide
theorem test_packet_displaytest : (received 0x0F01).map (·.displayTest) = some 0x01 := by decide
theorem test_packet_addrD : (received 0x0D00).map (fun c => (c.digits[0], c.latched)) = some (0, none) := by decide
theorem test_packet_addrE : (received 0x0E55).map (fun c => (c.digits[0], c.latched)) = some (0, none) := by decide

/-- R180: each event sets its own line; the others stay unknown. -/
theorem test_pins_drive_their_lines :
    [Instr.csh, .csl, .ckh, .ckl, .dh, .dl].map
      (fun i => (next (exec i (grid 8 8 1 1 false))).map (fun t => (t.cs, t.clk, t.din))) =
      [some (.high, .x, .x), some (.low, .x, .x), some (.x, .high, .x), some (.x, .low, .x), some (.x, .x, .high),
        some (.x, .x, .low)] := by decide

/-- R181: sixteen pulses of 0x0101 and sixteen of 0x0880, the farthest chip's first, fill a chain of two. -/
theorem test_chain_of_two :
    ((wireBits [⟨0x8, 0x80⟩, ⟨0x1, 0x01⟩]).foldl (fun cs v => shiftChain v cs)
      [Chip.powerUp, Chip.powerUp]).map (·.shift) = [0x0880, 0x0101] := by decide

/-- A reserved pin code stops the machine (I9). -/
theorem test_reserved_pin_code : next (step ((grid 8 8 1 1 false).withFetchWord 8 6)) = none := by decide

/-- Placed words run as the next step: a command, a packet, a pin event. -/
theorem test_placed_words :
    (next (step (State.reset.withFetchWord 32 0x20000000))).map (·.response) = some (some (.ok (some false))) ∧
    ((next (step (State.reset.withFetchWord 16 0x03FF))).map (·.chips)).bind (fun cs => cs[0]?.map (·.digits[2])) =
      some 0xFF ∧
    (next (step (State.reset.withFetchWord 8 4))).map (·.din) = some .high := by decide

/-! Witnesses: for every statement with hypotheses, a concrete state and operands that meet them together. -/

/-- The witness instance: displays of 2 by 3, 3 by 2 of them, checked (T-MAP's second geometry). -/
def wit : State := grid 2 3 3 2 true

theorem wit_inv : wit.Inv := by
  refine ⟨by decide, by decide, by decide, by decide, ?_, ?_, fun _ => rfl, by decide, by decide, ?_⟩
  · intro w hw
    rw [List.eq_of_mem_replicate hw]
    decide
  · intro w hw
    rw [List.eq_of_mem_replicate hw]
    decide
  · intro c hc w hw
    rw [List.eq_of_mem_replicate hc] at hw
    cases hw

/-- The witness instance with words on its port and the clock line low. -/
def witPort (ws : List CmdWord) : State := { wit with port := ws, clk := .low }

theorem witPort_inv (ws : List CmdWord) : (witPort ws).Inv :=
  ⟨wit_inv.1, wit_inv.2, wit_inv.3, wit_inv.4, wit_inv.5, wit_inv.6, wit_inv.7, wit_inv.8, wit_inv.9, wit_inv.10⟩

theorem witPort_turn (ws : List CmdWord) : (witPort ws).blockTurn := by
  refine ⟨rfl, rfl, rfl⟩

/-- DecodeOfEncodeIsIdentity. -/
theorem witness_wf :
    (Instr.setled 4095 4095 true).wf = true ∧ (Instr.getled 0 0).wf = true ∧ (Instr.execall 255 0xFF).wf = true ∧
      (Instr.exec [⟨255, 0⟩]).wf = true ∧ (Instr.exec []).wf = true ∧ (Instr.execPayload 255 0).wf = true := by decide

/-- EncodeOfDecodeIsIdentity. -/
theorem witness_decodes :
    decode (.command [0x1FFFFFFF]) = .error (.reservedBits 0x1FFFFFFF) ∧
      decode (.command [0x11FFFFFF]) = .ok (.setled 4095 4095 true) ∧
      decode (.payload 0x0000FFFF) = .ok (.execPayload 255 0xFF) ∧ decode (.packet 0x0FFF) = .ok (.displaytest 0xFF) ∧
      decode (.pin 5) = .ok .dl := by decide

/-- CommandTakesItsPayloadWordsOnly. -/
theorem witness_command_length :
    decodeCommand [0x60000001, 0x00000101, 0x30000000] = .ok (.exec [⟨1, 1⟩], [0x30000000]) ∧
      decodeCommand [0x60000001] = .error .incomplete := by decide

/-- SetReservedBitsAreRejected and IllegalWordsAtThePort: the lowest and the highest reserved bit of each word. -/
theorem witness_reserved_bits :
    (∀ w ∈ ([0x12000000, 0x18000000] : List CmdWord), w >>> 28 = 1 ∧ w &&& 0x0E000000 ≠ 0) ∧
    (∀ w ∈ ([0x21000000, 0x28000000] : List CmdWord), w >>> 28 = 2 ∧ w &&& 0x0F000000 ≠ 0) ∧
    (∀ w ∈ ([0x30000001, 0x38000000] : List CmdWord), w >>> 28 = 3 ∧ w &&& 0x0FFFFFFF ≠ 0) ∧
    (∀ w ∈ ([0x40000001, 0x48000000] : List CmdWord), w >>> 28 = 4 ∧ w &&& 0x0FFFFFFF ≠ 0) ∧
    (∀ w ∈ ([0x50010000, 0x58000000] : List CmdWord), w >>> 28 = 5 ∧ w &&& 0x0FFF0000 ≠ 0) ∧
    ((0x0FFFFFFF : CmdWord) >>> 28 = 0) ∧ 8 ≤ ((0x80000000 : CmdWord) >>> 28).toNat ∧
    8 ≤ ((0xFFFFFFFF : CmdWord) >>> 28).toNat := by
  simp

/-- IllegalWordsAtThePort. -/
theorem witness_illegal_at_port :
    (witPort [0x80000000]).blockTurn ∧ (witPort [0x80000000]).intake = [] ∧
      (witPort [0x80000000]).port = 0x80000000 :: [] := ⟨witPort_turn _, rfl, rfl⟩

/-- PacketAddressSelectsItsRegister: the address 31 is masked to 15. -/
theorem witness_packet_table :
    [Instr.noop 1, .digit0 1, .digit1 1, .digit2 1, .digit3 1, .digit4 1, .digit5 1, .digit6 1, .digit7 1,
      .decodemode 1, .intensity 1, .scanlimit 1, .shutdown 1, .addrD 1, .addrE 1, .displaytest 1][31 % 16]? =
      some (.displaytest 1) := by decide

/-- CoordinateMapIsABijection, ResetResult, ChangedRowsAreTheDifferingRows: a legal geometry, with the first and the last
coordinate in range. -/
theorem witness_geometry :
    wit.cfg.legal = true ∧ wit.cfg.inRange (0 : Nat) (0 : Nat) = true ∧ wit.cfg.inRange (5 : Nat) (5 : Nat) = true ∧
      (5 : Nat) < wit.cfg.v * wit.cfg.h ∧ (5 : Nat) < wit.cfg.dr * wit.cfg.dc := by decide

/-- SetledInRangeWritesOneLed, GetledInRangeReadsTheLed, VariantsAgreeInRange: both ends of the range. -/
theorem witness_in_range :
    wit.Inv ∧ wit.cfg.inRange 0 0 = true ∧ wit.cfg.inRange 5 5 = true := ⟨wit_inv, by decide, by decide⟩

/-- AccessorsOutOfRange: one step beyond each end, in both variants. -/
theorem witness_out_of_range :
    ((-1 : Int) < 0) ∧ ((wit.cfg.v * wit.cfg.dr : Nat) : Int) ≤ 6 ∧ ((wit.cfg.h * wit.cfg.dc : Nat) : Int) ≤ 6 ∧
      wit.cfg.checked = true ∧ (grid 2 3 3 2 false).cfg.checked = false := by decide

/-- ReadAfterWrite: other commands, another coordinate's SETLED among them, between the two. -/
theorem witness_read_after_write :
    wit.Inv ∧ wit.cfg.inRange 5 5 = true ∧
      ∀ i ∈ [Instr.draw, .setled 5 4 false, .exec []], i ≠ .reset ∧ ∀ on', i ≠ .setled 5 5 on' :=
  ⟨wit_inv, by decide, by simp⟩

/-- RowWriteCarriesTheCurrentRow: both ends of the ranges. -/
theorem witness_row_write : (1 ≤ 1 ∧ 1 ≤ 8 ∧ 0 < 8) ∧ (1 ≤ 8 ∧ 8 ≤ 8 ∧ 7 < 8) := by decide

/-- DrawSendsEachDisplayItsChangedRows: the first and the last display. -/
theorem witness_displays :
    wit.cur[0]? = some 0 ∧ wit.prev[0]? = some 0 ∧ wit.cur[5]? = some 0 ∧ wit.prev[5]? = some 0 := by decide

/-- DrawResult, DrawAndResetOutputSize: a clean and a dirty grid. -/
theorem witness_dirty :
    wit.dirty = false ∧ ({ wit with dirty := true } : State).dirty = true ∧
      ({ wit with dirty := true } : State).Inv ∧ ([⟨0, 0⟩] : List RegWrite) ≠ [] :=
  ⟨rfl, rfl, ⟨wit_inv.1, wit_inv.2, wit_inv.3, wit_inv.4, wit_inv.5, wit_inv.6, fun h => Bool.noConfusion h,
    wit_inv.8, wit_inv.9, wit_inv.10⟩, by decide⟩

/-- MinimalDiff. -/
theorem witness_minimal_diff :
    wit.Inv ∧ wit.cur = wit.prev ∧ wit.cfg.inRange 5 5 = true ∧ wit.led 5 5 ≠ true :=
  ⟨wit_inv, rfl, by decide, by decide⟩

/-- SecondDrawEmitsNothing: a raw write, a GETLED and a SETLED out of range between the two. -/
theorem witness_second_draw :
    ∀ i ∈ [Instr.execall 1 7, .getled 0 0, .setled 6 0 true],
      i ≠ .reset ∧ ∀ row col on, i = .setled row col on → wit.cfg.inRange row col = false := by
  simp
  decide

/-- CommandOutputIsBounded, EveryStepKeepsTheInvariant, SoundStatesNeverStop, PendingWorkEnds. -/
theorem witness_sound_step : (witPort [0x40000000]).Inv ∧ Goes (step (witPort [0x40000000])) :=
  ⟨witPort_inv _, ⟨_, rfl⟩⟩

/-- RawPathsSendTheirBatch: a batch of N writes, and one that is too short. -/
theorem witness_batch_lengths :
    (List.replicate 6 (⟨1, 7⟩ : RegWrite)).length = wit.cfg.v * wit.cfg.h ∧
      ([] : List RegWrite).length ≠ wit.cfg.v * wit.cfg.h := by decide

/-- PayloadWordJoinsItsExec. -/
theorem witness_payload :
    ({ wit with intake := [0x60000001] } : State).intake ≠ [] ∧ wit.intake = [] := by decide

/-- ErrorsChangeNothingElse. -/
theorem witness_error :
    exec (.numeric 5) wit = .next (wit.raise (.unsupported 5)) ∧ wit.response = none ∧
      (wit.raise (.unsupported 5)).response = some (.unsupported 5) ∧ (Response.unsupported 5).status ≠ 0 :=
  ⟨rfl, rfl, rfl, by decide⟩

/-- ExecArrivesThroughThePort, for an EXEC of two writes followed by a DRAW. -/
theorem witness_exec_at_port :
    (witPort [0x60000002, 0x00000101, 0x000008FF, 0x30000000]).blockTurn ∧
      (∀ w ∈ ([⟨0x1, 0x01⟩, ⟨0x8, 0xFF⟩] : List RegWrite), w.addr < 256) ∧
      (witPort [0x60000002, 0x00000101, 0x000008FF, 0x30000000]).port =
        BitVec.ofNat 32 (6 * 2 ^ 28 + ([⟨0x1, 0x01⟩, ⟨0x8, 0xFF⟩] : List RegWrite).length) ::
          (([⟨0x1, 0x01⟩, ⟨0x8, 0xFF⟩] : List RegWrite).map
            (fun w => BitVec.ofNat 32 (w.addr * 256 + w.data.toNat)) ++ [0x30000000]) :=
  ⟨witPort_turn _, by decide, by decide⟩

/-- ExecArrivesThroughThePort at the boundary of its step count: an EXEC of no writes, followed by a DRAW. -/
theorem witness_empty_exec_at_port :
    (witPort [0x60000000, 0x30000000]).blockTurn ∧ (witPort [0x60000000, 0x30000000]).intake = [] ∧
      (witPort [0x60000000, 0x30000000]).port =
        BitVec.ofNat 32 (6 * 2 ^ 28 + ([] : List RegWrite).length) ::
          (([] : List RegWrite).map (fun w => BitVec.ofNat 32 (w.addr * 256 + w.data.toNat)) ++ [0x30000000]) :=
  ⟨witPort_turn _, rfl, by decide⟩

/-- BadPayloadIsConsumedThenIllegal. -/
theorem witness_bad_payload :
    (witPort [0x60000001, 0x00010101]).blockTurn ∧
      (0x60000001 : CmdWord).toNat = 6 * 2 ^ 28 + ([0x00010101] : List CmdWord).length ∧
      (∃ p ∈ ([0x00010101] : List CmdWord), p >>> 16 ≠ 0) := ⟨witPort_turn _, by rfl, by simp⟩

/-- IncompleteExecTakesWordsAndWaits, with a word on the port and without. -/
theorem witness_incomplete :
    ({ witPort [] with intake := [0x60000001] } : State).blockTurn ∧
      ({ witPort [7] with intake := [0x60000001] } : State).blockTurn ∧ (0x60000001 : CmdWord) >>> 28 = 6 ∧
      ([] : List CmdWord).length < ((0x60000001 : CmdWord) &&& 0x0FFFFFFF).toNat :=
  ⟨⟨rfl, rfl, rfl⟩, ⟨rfl, rfl, rfl⟩, by decide, by decide⟩

/-- FramingInvariant, FirstDataEventIsLow, FarthestPacketIsSentFirst: a batch, its last display, both end bits. -/
theorem witness_batch :
    ([⟨1, 1⟩, ⟨0, 0⟩] : List RegWrite) ≠ [] ∧ ([⟨1, 1⟩, ⟨0, 0⟩] : List RegWrite)[1]? = some ⟨0, 0⟩ ∧
      0 < 16 ∧ 15 < 16 := by decide

/-- ChipSelectRiseLatchesAllChips, ClockPulseShiftsTheChainOnce: driven lines, and two chips in a chain. -/
theorem witness_lines :
    ({ wit with cs := .low } : State).cs = .low ∧ ({ wit with cs := .high } : State).cs = .high ∧
      ({ wit with clk := .low, din := .high } : State).din = Level.ofBool true ∧
      wit.chips[0]? = some Chip.powerUp ∧ wit.chips[5]? = some Chip.powerUp := by decide

/-- CascadeReceivesTheBatch. -/
theorem witness_cascade :
    List.replicate 6 (⟨1, 7⟩ : RegWrite) ≠ [] ∧ (List.replicate 6 (⟨1, 7⟩ : RegWrite)).length = (witPort []).chips.length ∧
      (witPort []).clk = .low := by decide

/-- The packet statements: chip 1 of 3 has latched a word, chip 0 has not. -/
theorem witness_latched :
    let c : Chip := { Chip.powerUp with latched := some 0x0101 }
    ({ wit with chips := [Chip.powerUp, c, c] } : State).chips = [Chip.powerUp] ++ c :: [c] ∧
      (∀ x ∈ [Chip.powerUp], x.latched = none) ∧ c.latched = some 0x0101 ∧
      [Instr.digit0 1, .digit1 1, .digit2 1, .digit3 1, .digit4 1, .digit5 1, .digit6 1, .digit7 1][(7 : Fin 8).val]? =
        some (.digit7 1) := by decide

/-- UnlatchedPacketChangesNothing. -/
theorem witness_unlatched : (∀ c ∈ wit.chips, c.latched = none) ∧ decodePacket 0x0101 = .ok (.digit0 1) := by decide

/-- StepRunsTheDecodedInstruction: one witness for each of its five clauses. -/
theorem witness_step_clauses :
    (latchedWord (latchedGrid 0x0101).chips = some 0x0101 ∧ decodePacket 0x0101 = .ok (.digit0 1)) ∧
    (latchedWord (wit.withFetchWord 8 5).chips = none ∧
      (wit.withFetchWord 8 5).out[(wit.withFetchWord 8 5).replayed]? = some 5 ∧ decodePin 5 = .ok .dl) ∧
    ((witPort [0x30000000]).blockTurn ∧ decodeCommand [0x30000000] = .ok (.draw, [])) ∧
    (({ witPort [] with intake := [0x60000001, 0x00000101] } : State).blockTurn ∧
      decodeCommand [0x60000001, 0x00000101] = .ok (.exec [⟨1, 1⟩], [])) ∧
    (({ witPort [0x00000101] with intake := [0x60000001] } : State).blockTurn ∧
      decodeCommand [0x60000001] = .error .incomplete ∧ decode (.payload 0x00000101) = .ok (.execPayload 1 1)) :=
  ⟨by decide, by decide, ⟨witPort_turn _, by decide⟩, ⟨⟨rfl, rfl, rfl⟩, by decide⟩,
    ⟨⟨rfl, rfl, rfl⟩, by decide, by decide⟩⟩

/-- NoCommandStartsBeforeTheReplayEnds, ResponseFollowsTheReplay, OutputStreamIsAppendOnly, ConfigurationIsConstant: a step
while an event waits for its replay, and the delivery of a response. -/
theorem witness_pending :
    Goes (step (wit.withFetchWord 8 5)) ∧ ¬ (wit.withFetchWord 8 5).blockTurn ∧
      step (wit.respond (.ok none)) = .next ((wit.respond (.ok none)).deliver (.ok none)) :=
  ⟨⟨_, rfl⟩, fun h => absurd h.2.1 (by decide), rfl⟩

/-- ConstructionResult: a legal geometry at its bounds, and one over them. -/
theorem witness_construction :
    ((1 : Int) ≤ 8 ∧ (8 : Int) ≤ 8 ∧ (512 : Int) * 8 ≤ 4096) ∧ ¬ ((513 : Int) * 8 ≤ 4096) ∧ ¬ ((1 : Int) ≤ 0) := by decide

/-- ResetReachesEveryChip. -/
theorem witness_reset_reaches :
    (witPort [0x40000000, 0x30000000]).Inv ∧ (witPort [0x40000000, 0x30000000]).blockTurn ∧
      (witPort [0x40000000, 0x30000000]).intake = [] ∧ (witPort [0x40000000, 0x30000000]).clk = .low ∧
      (witPort [0x40000000, 0x30000000]).port = 0x40000000#32 :: [0x30000000] :=
  ⟨witPort_inv _, witPort_turn _, rfl, rfl, rfl⟩

/-- DrawReachesEveryChip: the chips show the zero rows of `prev`, and one LED is to be drawn. -/
theorem witness_draw_reaches :
    let s : State := { witPort [0x30000000] with cur := [1, 0, 0, 0, 0, 0], dirty := true }
    s.Inv ∧ s.blockTurn ∧ s.intake = [] ∧ s.clk = .low ∧ s.port = 0x30000000#32 :: [] ∧
      ∀ (j : Nat) (c : Chip) (p : DisplayWord), s.chips[j]? = some c → s.prev[j]? = some p →
        ∀ r : Fin 8, r.val < s.cfg.dr → c.digits[r.val] = (rowWrite s.cfg.dc p r.val).data := by
  refine ⟨⟨wit_inv.1, by decide, wit_inv.3, wit_inv.4, ?_, wit_inv.6, fun h => Bool.noConfusion h, wit_inv.8,
    wit_inv.9, wit_inv.10⟩, ⟨rfl, rfl, rfl⟩, rfl, rfl, rfl, ?_⟩
  · intro w hw
    have : w = 1 ∨ w = 0 := by simpa using hw
    rcases this with rfl | rfl <;> decide
  · intro j c p hc hp r _
    have h1 := List.eq_of_mem_replicate (List.mem_of_getElem? hc)
    have h2 := List.eq_of_mem_replicate (List.mem_of_getElem? hp)
    subst h1 h2
    revert r
    decide

end Sys2Proof.Tests
end

/-! PROOFS. The statements about the machine's state (10_state.md).

First what one step can do to the state, then the invariant of R30 operation by operation, then how a command's output
stream reaches the chips (R181), which gives the chips' state after a RESET (R31). -/

namespace Sys2Proof.Machine

/-! ### What a step can do -/

/-- What the block's own turn can be: it runs an instruction, or only answers or waits. In both cases nothing of the state
but the port, the intake and the response has changed so far. -/
def BlockFetched (s : State) (f : Fetched) : Prop :=
  (∃ i p q, f = .run i { s with port := p, intake := q }) ∨
  (∃ p q r, f = .go { s with port := p, intake := q, response := r })

theorem fetchPayload_blockFetched (s : State) : BlockFetched s (fetchPayload s) := by
  obtain ⟨_, hf⟩ | ⟨w, rest, _, ⟨d, _, hf⟩ | ⟨_, hf⟩⟩ := fetchPayload_cases s
  · exact .inr ⟨s.port, s.intake, s.response, hf⟩
  · exact .inl ⟨_, rest, s.intake, hf⟩
  · exact .inr ⟨rest, s.intake ++ [w], s.response, hf⟩

theorem fetchCommand_blockFetched (w : CmdWord) (ws : List CmdWord) (s : State) :
    BlockFetched s (fetchCommand w ws s) := by
  obtain ⟨i, more, _, hf⟩ | ⟨_, hf⟩ | hf := fetchCommand_cases w ws s
  · exact .inl ⟨i, more ++ s.port, [], hf⟩
  · by_cases he : s.intake.isEmpty = true
    · rw [if_pos he] at hf
      exact .inr ⟨s.port, [w], s.response, hf⟩
    · rw [if_neg he] at hf
      exact hf ▸ fetchPayload_blockFetched s
  · exact .inr ⟨s.port, [], _, hf⟩

theorem fetchBlock_blockFetched (s : State) : BlockFetched s (fetchBlock s) := by
  obtain ⟨_, _, hf⟩ | ⟨w, rest, _, _, hf⟩ | ⟨w, ws, _, hf⟩ := fetchBlock_cases s
  · exact .inr ⟨s.port, s.intake, s.response, hf⟩
  · exact hf ▸ fetchCommand_blockFetched w [] { s with port := rest }
  · exact hf ▸ fetchCommand_blockFetched w ws s

/-- Everything a completed step can be: it replays an event, or runs an instruction of a chip or of the block, or runs none;
all but the fields named here is left to `exec`. -/
theorem step_next_cases {s t : State} (h : step s = .next t) :
    (∃ i, s.replayed < s.out.length ∧ exec i { s with replayed := s.replayed + 1 } = .next t) ∨
    (∃ i p q, exec i { s with port := p, intake := q } = .next t) ∨
    (∃ p q r rs, t = { s with port := p, intake := q, response := r, responses := rs }) := by
  obtain ⟨w, _, ⟨i, _, hs⟩ | hs⟩ | ⟨_, c, hc, ⟨i, _, hs⟩ | hs⟩ | ⟨_, _, r, _, hs⟩ | ⟨_, hf⟩ := step_cases s
  · exact .inr (.inl ⟨i, s.port, s.intake, hs ▸ h⟩)
  · rw [hs] at h
    cases h
  · obtain ⟨hlt, _⟩ := List.getElem?_eq_some_iff.1 hc
    exact .inl ⟨i, hlt, hs ▸ h⟩
  · rw [hs] at h
    cases h
  · rw [hs] at h
    cases h
    exact .inr (.inr ⟨s.port, s.intake, none, _, rfl⟩)
  · rw [step, hf] at h
    obtain ⟨i, p, q, hb⟩ | ⟨p, q, r, hb⟩ := fetchBlock_blockFetched s
    · rw [hb] at h
      exact .inr (.inl ⟨i, p, q, h⟩)
    · rw [hb] at h
      cases h
      exact .inr (.inr ⟨p, q, r, s.responses, rfl⟩)

/-! ### The configuration registers -/

/-- RESET as one update: the initialization batches and the draw's batches are emitted, the bitmaps are 0 and drawn. -/
theorem reset_drawBody_eq (s : State) :
    ((initWrites.foldl State.sendToAll s).blank.markDirty).drawBody =
      { s with
        out := s.out ++ ((initWrites.flatMap fun w => serialize (List.replicate s.cfg.n w)) ++
          (drawBatches s.blank).flatMap serialize).map PinEvent.code
        cur := List.replicate s.cfg.n 0
        prev := List.replicate s.cfg.n 0
        dirty := false } := by
  rw [foldl_sendToAll, State.drawBody_eq]
  simp [State.blank, State.markDirty, drawBatches, changeLists]

theorem exec_keeps_cfg {i : Instr} {s t : State} (h : exec i s = .next t) : t.cfg = s.cfg := by
  obtain ⟨_, he⟩ | ⟨_, _, _, _, _, he⟩ | ⟨_, _, he⟩ | ⟨_, he⟩ | ⟨_, _, he⟩ | ⟨_, _, he⟩ | ⟨_, he⟩ | ⟨_, he⟩ | ⟨_, he⟩ |
    ⟨_, he⟩ := exec_cases i s <;> rw [he] at h <;> cases h
  case inr.inr.inr.inl => simp [reset_drawBody_eq]
  all_goals simp

/-- Settles O53: whichever of its turns the step takes, only `exec` could touch the configuration, and it does not. -/
theorem configurationIsConstant : Obligations.ConfigurationIsConstant := by
  intro s t h
  obtain ⟨i, _, he⟩ | ⟨i, p, q, he⟩ | ⟨p, q, r, rs, rfl⟩ := step_next_cases h
  · exact (exec_keeps_cfg he :)
  · exact (exec_keeps_cfg he :)
  · rfl

/-! ### The invariant -/

/-- Construction of a legal geometry gives a sound state. -/
theorem State.initial_inv (g : Cfg) (hg : g.legal = true) : (State.initial g).Inv where
  legal := hg
  curLength := List.length_replicate
  prevLength := List.length_replicate
  chipsLength := List.length_replicate
  curHigh w hw := by rw [List.eq_of_mem_replicate hw]; exact Nat.two_pow_pos _
  prevHigh w hw := by rw [List.eq_of_mem_replicate hw]; exact Nat.two_pow_pos _
  cleanDrawn _ := rfl
  replayedBound := Nat.le_refl 0
  codesDefined _ hc := absurd hc List.not_mem_nil
  latchedDefined c hc w hw := by
    rw [List.eq_of_mem_replicate hc] at hw
    cases hw

/-- Settles O54: the geometry of `State.reset` is legal. -/
theorem resetStateIsSound : Obligations.ResetStateIsSound := State.initial_inv Cfg.reset (by decide)

/-- In a legal geometry the bit of a coordinate is one of the W significant ones (R57, R23). -/
theorem Cfg.bitOf_lt (g : Cfg) (hg : g.legal = true) (row col : Nat) : g.bitOf row col < g.w := by
  obtain ⟨hdr, _, hdc, _⟩ := (Cfg.legal_iff g).1 hg
  have hrow : row % g.dr + 1 ≤ g.dr := Nat.mod_lt _ hdr
  calc row % g.dr * g.dc + col % g.dc
      < row % g.dr * g.dc + g.dc := Nat.add_lt_add_left (Nat.mod_lt _ hdc) _
    _ = (row % g.dr + 1) * g.dc := by ring
    _ ≤ g.dr * g.dc := Nat.mul_le_mul_right _ hrow

/-- Events appended to the stream keep its codes defined. -/
theorem codesDefined_append {out : List PinCode} (h : ∀ c ∈ out, c.toNat < 6) (es : List PinEvent) :
    ∀ c ∈ out ++ es.map PinEvent.code, c.toNat < 6 := by
  intro c hc
  obtain hc | hc := List.mem_append.1 hc
  · exact h c hc
  · obtain ⟨e, _, rfl⟩ := List.mem_map.1 hc
    exact PinEvent.code_lt e

/-- A clock pulse leaves the latches as they are. -/
theorem shiftChain_latched (v : Bool) (cs : List Chip) : (shiftChain v cs).map Chip.latched = cs.map Chip.latched := by
  have h := congrArg (List.map Chip.latched) (shiftChain_keeps v cs)
  rwa [List.map_map, List.map_map] at h

namespace State.Inv

variable {s : State}

/-- The fields of the port, the responses and the lines are in no clause of the invariant. -/
theorem of_eq {t : State} (h : s.Inv) (hcfg : t.cfg = s.cfg) (hcur : t.cur = s.cur) (hprev : t.prev = s.prev)
    (hdirty : t.dirty = s.dirty) (hout : t.out = s.out) (hrep : t.replayed = s.replayed) (hchips : t.chips = s.chips) :
    t.Inv := by
  constructor <;> simp only [hcfg, hcur, hprev, hdirty, hout, hrep, hchips]
  exacts [h.legal, h.curLength, h.prevLength, h.chipsLength, h.curHigh, h.prevHigh, h.cleanDrawn, h.replayedBound,
    h.codesDefined, h.latchedDefined]

theorem respond (h : s.Inv) (r : Response) : (s.respond r).Inv := h.of_eq rfl rfl rfl rfl rfl rfl rfl

theorem replay (h : s.Inv) (hlt : s.replayed < s.out.length) : State.Inv { s with replayed := s.replayed + 1 } :=
  { h with replayedBound := hlt }

theorem emitAll (h : s.Inv) (es : List PinEvent) : (s.emitAll es).Inv :=
  { h with
    replayedBound := by simpa using h.replayedBound.trans (Nat.le_add_right _ _)
    codesDefined := codesDefined_append h.codesDefined es }

/-- A write of one significant bit keeps R30 (a), and (b) asks nothing while `dirty` is set. -/
theorem setLed (h : s.Inv) (row col : Int) (on : Bool) :
    ((s.setCur (s.displayAt row col)
      (setBit (s.cur.getD (s.displayAt row col) 0) (s.bitAt row col) on)).markDirty).Inv := by
  have hold : (s.cur.getD (s.displayAt row col) 0).toNat < 2 ^ s.cfg.w := by
    rw [List.getD_eq_getElem?_getD]
    cases hx : s.cur[s.displayAt row col]? with
    | none => exact Nat.two_pow_pos _
    | some x => exact h.curHigh x (List.mem_of_getElem? hx)
  refine { h with
    curLength := by simpa using h.curLength
    curHigh := fun w hw => ?_
    cleanDrawn := fun hd => Bool.noConfusion hd }
  obtain hw | rfl := List.mem_or_eq_of_mem_set hw
  · exact h.curHigh w hw
  · exact setBit_lt _ _ _ on hold (s.cfg.bitOf_lt h.legal _ _) (s.cfg.w_le h.legal)

/-- Emitting batches and making both bitmaps one drawn bitmap of significant bits keeps the invariant (R30 (a), (b)). -/
theorem drawn (h : s.Inv) (es : List PinEvent) (ws : List DisplayWord) (hlen : ws.length = s.cfg.n)
    (hhigh : ∀ w ∈ ws, w.toNat < 2 ^ s.cfg.w) :
    State.Inv { s with out := s.out ++ es.map PinEvent.code, cur := ws, prev := ws, dirty := false } :=
  { h with
    curLength := hlen
    prevLength := hlen
    curHigh := hhigh
    prevHigh := hhigh
    cleanDrawn := fun _ => rfl
    replayedBound := (h.emitAll es).replayedBound
    codesDefined := codesDefined_append h.codesDefined es }

theorem drawBody (h : s.Inv) : s.drawBody.Inv := by
  rw [State.drawBody_eq]
  exact h.drawn _ s.cur h.curLength h.curHigh

/-- RESET's sentinel is gone from `prev` when its draw ends, so R30 (c) holds between commands. -/
theorem resetBody (h : s.Inv) : ((initWrites.foldl State.sendToAll s).blank.markDirty).drawBody.Inv := by
  rw [reset_drawBody_eq]
  refine h.drawn _ _ List.length_replicate fun w hw => ?_
  rw [List.eq_of_mem_replicate hw]
  exact Nat.two_pow_pos _

/-- New chips keep the invariant if they are as many and their latches hold register writes. -/
theorem withChips {t : State} (h : s.Inv) (hcfg : t.cfg = s.cfg) (hcur : t.cur = s.cur) (hprev : t.prev = s.prev)
    (hdirty : t.dirty = s.dirty) (hout : t.out = s.out) (hrep : t.replayed = s.replayed)
    (hlen : t.chips.length = s.chips.length)
    (hlatch : ∀ c ∈ t.chips, ∀ w, c.latched = some w → w.toNat < 2 ^ 12) : t.Inv :=
  { h.of_eq (t := { t with chips := s.chips }) hcfg hcur hprev hdirty hout hrep rfl with
    chipsLength := by rw [hlen, hcfg, h.chipsLength]
    latchedDefined := hlatch }

theorem perform (h : s.Inv) (f : Nat → Chip → Chip) : (s.perform f).Inv := by
  cases hl : latchedWord s.chips with
  | none => rwa [s.perform_none f hl]
  | some w =>
    obtain ⟨pre, c, post, hs, hpre, hc⟩ := latchedWord_split _ _ hl
    rw [s.perform_some f pre post c w hs hpre hc]
    refine h.withChips rfl rfl rfl rfl rfl rfl (by simp [hs]) fun x hx v hv => ?_
    have hold : x ∈ pre ∨ x ∈ post → v.toNat < 2 ^ 12 := fun hx => h.latchedDefined x (by simp [hs]; tauto) v hv
    obtain hx | rfl | hx := by simpa using hx
    · exact hold (.inl hx)
    · cases hv
    · exact hold (.inr hx)

/-- A chip latches a register write, of 12 bits (R181). -/
theorem driveCs (h : s.Inv) (v : Bool) : (s.driveCs v).Inv := by
  refine h.withChips rfl rfl rfl rfl rfl rfl ?_ fun c hc w hw => ?_
  · rw [State.driveCs_chips]
    split <;> simp
  · rw [State.driveCs_chips] at hc
    split at hc
    · obtain ⟨b, _, rfl⟩ := List.mem_map.1 hc
      obtain rfl := Option.some.inj hw
      exact writeField_lt b.shift
    · exact h.latchedDefined c hc w hw

theorem driveClk (h : s.Inv) (v : Bool) : (s.driveClk v).Inv := by
  refine h.withChips rfl rfl rfl rfl rfl rfl ?_ fun c hc w hw => ?_
  · rw [State.driveClk_chips]
    split <;> simp
  · rw [State.driveClk_chips] at hc
    split at hc
    · have hmem : some w ∈ s.chips.map Chip.latched := by
        rw [← shiftChain_latched, ← hw]
        exact List.mem_map_of_mem hc
      obtain ⟨b, hb, hbw⟩ := List.mem_map.1 hmem
      exact h.latchedDefined b hb w hbw
    · exact h.latchedDefined c hc w hw

end State.Inv

theorem exec_keeps_inv {i : Instr} {s t : State} (h : s.Inv) (he : exec i s = .next t) : t.Inv := by
  obtain ⟨r, hx⟩ | ⟨row, col, on, _, _, hx⟩ | ⟨_, _, hx⟩ | ⟨_, hx⟩ | ⟨batch, _, hx⟩ | ⟨w, _, hx⟩ | ⟨f, hx⟩ | ⟨v, hx⟩ |
    ⟨v, hx⟩ | ⟨v, hx⟩ := exec_cases i s <;> rw [hx] at he <;> cases he
  · exact h.respond r
  · exact (h.setLed row col on).respond _
  · exact h.drawBody.respond _
  · exact h.resetBody.respond _
  · exact (h.emitAll _).respond _
  · exact h.of_eq rfl rfl rfl rfl rfl rfl rfl
  · exact h.perform f
  · exact h.driveCs v
  · exact h.driveClk v
  · exact h.of_eq rfl rfl rfl rfl rfl rfl rfl

/-- Settles O56: a step changes only fields outside the invariant, or replays one event of those emitted, before it runs an
instruction, and every instruction keeps the invariant (R30 in it). -/
theorem everyStepKeepsTheInvariant : Obligations.EveryStepKeepsTheInvariant := by
  intro s t hs h
  obtain ⟨i, hlt, he⟩ | ⟨i, p, q, he⟩ | ⟨p, q, r, rs, rfl⟩ := step_next_cases h
  · exact exec_keeps_inv (hs.replay hlt) he
  · have hu : State.Inv { s with port := p, intake := q } := hs.of_eq rfl rfl rfl rfl rfl rfl rfl
    exact exec_keeps_inv hu he
  · exact hs.of_eq rfl rfl rfl rfl rfl rfl rfl

/-! ### The control values of RESET -/

/-- The value RESET writes to a control register is stored, at every draw number, and changes nothing else of the chip. -/
theorem Chip.controlWrite_resetValue (r : ControlReg) (k : Nat) (c : Chip) :
    c.controlWrite r r.resetValue k = c.setControl r r.resetValue := if_pos rfl

/-- The chip that performs RESET's write to a control register stores its value; the other chips and the block are
unchanged. -/
theorem perform_resetValue (s : State) (pre post : List Chip) (c : Chip) (w : PktWord) (r : ControlReg)
    (hs : s.chips = pre ++ c :: post) (hpre : ∀ x ∈ pre, x.latched = none) (hc : c.latched = some w) :
    s.perform (Chip.controlWrite r r.resetValue) =
      { s with
        chips := pre ++ { c.setControl r r.resetValue with latched := none } :: post
        freeIndex := s.freeIndex + 1 } := by
  rw [s.perform_some _ pre post c w hs hpre hc, Chip.controlWrite_resetValue]

/-- Settles O45: each of the five packets is a control write of the register's reset value. -/
theorem resetControlWritesAreStored : Obligations.ResetControlWritesAreStored := by
  intro s pre post c w i c' hs hpre hc hi
  have hstored (r : ControlReg) :=
    congrArg (Host.Outcome.next (φ := Fault) (ρ := Refusal)) (perform_resetValue s pre post c w r hs hpre hc)
  simp only [List.mem_cons, Prod.mk.injEq, List.not_mem_nil, or_false] at hi
  obtain ⟨rfl, rfl⟩ | ⟨rfl, rfl⟩ | ⟨rfl, rfl⟩ | ⟨rfl, rfl⟩ | ⟨rfl, rfl⟩ := hi
  · exact hstored .displayTest
  · exact hstored .decodeMode
  · exact hstored .scanLimit
  · exact hstored .intensity
  · exact hstored .shutdown

/-! ### The chain of shift registers (R181)

A shift register is a queue of 16 bits. Sixteen pulses fill the first chip with the packet on the data line and hand its
old packet, bit by bit, to the next chip; so a batch of N packets ends with display i's packet in chip i. -/

/-- One pulse of one shift register, as in `shiftChain`. -/
def shiftBit (p : PktWord) (v : Bool) : PktWord := p <<< 1 ||| (BitVec.ofBool v).setWidth 16

/-- A bit string clocked into the chain. -/
def shiftAll (vs : List Bool) (cs : List Chip) : List Chip := vs.foldl (fun cs v => shiftChain v cs) cs

/-- The bits a shift register hands to the next chip while a bit string is clocked into it. -/
def bitsOut : PktWord → List Bool → List Bool
  | _, [] => []
  | p, v :: vs => p.msb :: bitsOut (shiftBit p v) vs

/-- The chips with the given shift registers. -/
def loadShifts (cs : List Chip) (ps : List PktWord) : List Chip := List.zipWith (fun c p => { c with shift := p }) cs ps

theorem packetBits_injective {p q : PktWord} (h : packetBits p = packetBits q) : p = q := by
  apply BitVec.eq_of_getLsbD_eq
  intro i hi
  have hk := congrArg (fun l : List Bool => l[15 - i]?) h
  have hs : 15 - (15 - i) = i := by omega
  simpa [packetBits, show 15 - i < 16 by omega, hs] using hk

/-- A shift register sends its bits from bit 15 on. -/
theorem packetBits_cons (p : PktWord) : packetBits p = p.msb :: (packetBits p).tail := by
  simp [packetBits, List.range_succ_eq_map, BitVec.msb_eq_getLsbD_last]

/-- A pulse moves the queue on by one bit. -/
theorem packetBits_shiftBit (p : PktWord) (v : Bool) : packetBits (shiftBit p v) = (packetBits p).tail ++ [v] := by
  simp [packetBits, List.range_succ_eq_map, shiftBit]

theorem packetBits_foldl_shiftBit (vs : List Bool) (p : PktWord) :
    packetBits (vs.foldl shiftBit p) = (packetBits p ++ vs).drop vs.length := by
  induction vs generalizing p with
  | nil => simp
  | cons v vs ih =>
    rw [List.foldl_cons, ih, packetBits_shiftBit, packetBits_cons p]
    simp

theorem bitsOut_eq (vs : List Bool) (p : PktWord) : bitsOut p vs = (packetBits p ++ vs).take vs.length := by
  induction vs generalizing p with
  | nil => simp [bitsOut]
  | cons v vs ih =>
    rw [bitsOut, ih, packetBits_shiftBit, packetBits_cons p]
    simp

theorem shiftAll_nil (vs : List Bool) : shiftAll vs [] = [] := by
  induction vs with
  | nil => rfl
  | cons v vs ih => exact ih

theorem shiftAll_cons (vs : List Bool) (c : Chip) (cs : List Chip) :
    shiftAll vs (c :: cs) = { c with shift := vs.foldl shiftBit c.shift } :: shiftAll (bitsOut c.shift vs) cs := by
  induction vs generalizing c cs with
  | nil => rfl
  | cons v vs ih => exact ih { c with shift := shiftBit c.shift v } (shiftChain c.shift.msb cs)

/-- Sixteen pulses put the packet into the first chip and each chip's packet into the next. -/
theorem shiftAll_packetBits (p : PktWord) (cs : List Chip) :
    shiftAll (packetBits p) cs = loadShifts cs (p :: cs.map Chip.shift) := by
  induction cs generalizing p with
  | nil => exact shiftAll_nil _
  | cons c cs ih =>
    have hin : (packetBits p).foldl shiftBit c.shift = p := packetBits_injective <| by
      simp [packetBits_foldl_shiftBit]
    have hout : bitsOut c.shift (packetBits p) = packetBits c.shift := by simp [bitsOut_eq]
    rw [shiftAll_cons, hin, hout, ih]
    rfl

theorem loadShifts_self (cs : List Chip) : loadShifts cs (cs.map Chip.shift) = cs := by
  induction cs with
  | nil => rfl
  | cons c cs ih => exact congrArg (List.cons c) ih

theorem loadShifts_loadShifts (p : PktWord) (ps : List PktWord) (cs : List Chip) (h : cs.length ≤ ps.length) :
    loadShifts (loadShifts cs ps) (p :: (loadShifts cs ps).map Chip.shift) = loadShifts cs (p :: ps) := by
  induction cs generalizing p ps with
  | nil => rfl
  | cons c cs ih =>
    cases ps with
    | nil => simp at h
    | cons q qs => exact congrArg (List.cons _) (ih q qs (Nat.le_of_succ_le_succ h))

theorem wireBits_cons (w : RegWrite) (ws : List RegWrite) :
    wireBits (w :: ws) = wireBits ws ++ packetBits (packet w) := by simp [wireBits]

theorem shiftAll_wireBits (batch : List RegWrite) (cs : List Chip) :
    shiftAll (wireBits batch) cs = loadShifts cs (batch.map packet ++ cs.map Chip.shift) := by
  induction batch with
  | nil => exact (loadShifts_self cs).symm
  | cons w ws ih =>
    calc shiftAll (wireBits (w :: ws)) cs
        = shiftAll (packetBits (packet w)) (shiftAll (wireBits ws) cs) := by
          rw [wireBits_cons, shiftAll, List.foldl_append]; rfl
      _ = loadShifts cs (packet w :: (ws.map packet ++ cs.map Chip.shift)) := by
          rw [shiftAll_packetBits, ih, loadShifts_loadShifts _ _ _ (by simp)]

/-- A batch with one packet per chip ends with each packet in its own chip. -/
theorem shiftAll_wireBits_of_length (batch : List RegWrite) (cs : List Chip) (h : batch.length = cs.length) :
    shiftAll (wireBits batch) cs = List.zipWith (fun c w => { c with shift := packet w }) cs batch := by
  have htrunc := List.zipWith_append (f := fun (c : Chip) p => { c with shift := p }) (l₁ := cs) (l₁' := [])
    (l₂ := batch.map packet) (l₂' := cs.map Chip.shift) (by simp [h])
  rw [shiftAll_wireBits, loadShifts]
  simpa [List.zipWith_map_right] using htrunc

/-! ### The pin events of a batch -/

/-- What a pin event does to the lines and, at its edge, to the chips (R174 to R179). -/
def driveEvent : PinEvent → State → State
  | .csh, s => s.driveCs true
  | .csl, s => s.driveCs false
  | .ckh, s => s.driveClk true
  | .ckl, s => s.driveClk false
  | .dh, s => s.driveDin true
  | .dl, s => s.driveDin false

/-- A list of pin events, one after the other. -/
def driveAll (es : List PinEvent) (s : State) : State := es.foldl (fun s e => driveEvent e s) s

theorem exec_pinEvent (e : PinEvent) (s : State) : exec e.instr s = .next (driveEvent e s) := by cases e <;> rfl

theorem decodePin_code (e : PinEvent) : decodePin e.code = .ok e.instr := by cases e <;> rfl

theorem latchedWord_shiftChain (v : Bool) (cs : List Chip) (h : latchedWord cs = none) :
    latchedWord (shiftChain v cs) = none := by
  rw [latchedWord_eq_none] at h ⊢
  intro c hc
  have hmem : c.latched ∈ cs.map Chip.latched := shiftChain_latched v cs ▸ List.mem_map_of_mem hc
  obtain ⟨b, hb, hbc⟩ := List.mem_map.1 hmem
  rw [← hbc, h b hb]

/-- Only CSH makes a chip latch (R175). -/
theorem driveEvent_latchedWord (e : PinEvent) (s : State) (he : e ≠ .csh) (h : latchedWord s.chips = none) :
    latchedWord (driveEvent e s).chips = none := by
  have hclk (v : Bool) : latchedWord (s.driveClk v).chips = none := by
    rw [State.driveClk_chips]
    split
    · exact latchedWord_shiftChain _ _ h
    · exact h
  cases e with
  | csh => exact absurd rfl he
  | csl => simpa [driveEvent] using h
  | ckh => exact hclk true
  | ckl => exact hclk false
  | dh => exact h
  | dl => exact h

/-- A line that was driven is found at its level. -/
@[simp] theorem Level.found_ofBool (v free : Bool) : (Level.ofBool v).found free = v := by cases v <;> rfl
@[simp] theorem Level.found_high (free : Bool) : Level.high.found free = true := rfl
@[simp] theorem Level.found_low (free : Bool) : Level.low.found free = false := rfl

/-- A clock pulse from a low clock shifts the driven data bit in once, whichever edge the chips sample at (R181, G2). -/
theorem driveAll_pulse (s : State) (v : Bool) (hclk : s.clk = .low) (hdin : s.din = Level.ofBool v) :
    driveAll [.ckh, .ckl] s =
      { s with clk := .low, chips := shiftChain v s.chips, freeIndex := s.freeIndex + 4 } := by
  have hbit (free : Bool) : s.din.found free = v := by rw [hdin, Level.found_ofBool]
  cases hedge : Config.samplesOnRise <;>
    simp [driveAll, driveEvent, State.driveClk, sampleEdge, hedge, hbit, hclk, Level.ofBool]

/-- The clocked bits of a call, from a low clock with the data line at the last level emitted: the bits are shifted into the
chain, whether a bit has its own data event or not (R172). -/
theorem driveAll_clockBits (vs : List Bool) (last : Option Bool) (s : State) (hclk : s.clk = .low)
    (hlast : ∀ v, last = some v → s.din = Level.ofBool v) :
    ∃ d f, driveAll (clockBits last vs) s =
      { s with clk := .low, din := d, chips := shiftAll vs s.chips, freeIndex := f } := by
  induction vs generalizing last s with
  | nil => exact ⟨s.din, s.freeIndex, by rw [← hclk]; rfl⟩
  | cons v vs ih =>
    have hpulse (u : State) (hu : u.clk = .low) (hv : u.din = Level.ofBool v) :
        ∃ d f, driveAll (.ckh :: .ckl :: clockBits (some v) vs) u =
          { u with clk := .low, din := d, chips := shiftAll (v :: vs) u.chips, freeIndex := f } := by
      obtain ⟨d, f, h⟩ := ih (some v) (driveAll [.ckh, .ckl] u) (by rw [driveAll_pulse u v hu hv])
        (fun x hx => by cases hx; rw [driveAll_pulse u v hu hv]; exact hv)
      refine ⟨d, f, h.trans ?_⟩
      rw [driveAll_pulse u v hu hv]
      rfl
    by_cases hsame : last = some v
    · subst hsame
      rw [clockBits_same]
      exact hpulse s hclk (hlast v rfl)
    · rw [clockBits_change last v vs hsame]
      obtain ⟨d, f, h⟩ := hpulse (s.driveDin v) hclk rfl
      refine ⟨d, f, Eq.trans ?_ h⟩
      cases v <;> rfl

theorem csh_notMem_clockBits (last : Option Bool) (vs : List Bool) : PinEvent.csh ∉ clockBits last vs := by
  induction vs generalizing last with
  | nil => exact List.not_mem_nil
  | cons v vs ih =>
    by_cases hsame : last = some v
    · subst hsame
      simpa [clockBits_same] using ih (some v)
    · cases v <;> simpa [clockBits_change last _ vs hsame, dataEvent] using ih _

/-! ### The replay -/

theorem stepN_add (m n : Nat) (s : State) : stepN (m + n) s = (stepN m s).bind (stepN n) := by
  induction m generalizing s with
  | zero => simp [stepN]
  | succ m ih =>
    rw [Nat.succ_add, stepN, stepN]
    cases step s with
    | next t => exact ih t
    | fault _ => rfl
    | refused _ => rfl

theorem stepN_trans {m n : Nat} {s t u : State} (hm : stepN m s = some t) (hn : stepN n t = some u) :
    stepN (m + n) s = some u := by rw [stepN_add, hm]; exact hn

theorem stepN_succ {n : Nat} {s t : State} (h : step s = .next t) : stepN (n + 1) s = stepN n t := by
  rw [stepN, h]

/-- The events emitted and not yet replayed (R55). -/
def State.pending (s : State) : List PinCode := s.out.drop s.replayed

/-- The executor's position moved on by n events. -/
def State.advance (s : State) (n : Nat) : State := { s with replayed := s.replayed + n }

theorem State.advance_advance (s : State) (m n : Nat) : (s.advance m).advance n = s.advance (m + n) := by
  simp [State.advance, Nat.add_assoc]

theorem State.out_of_pending {s : State} {c : PinCode} {rest : List PinCode} (h : s.pending = c :: rest) :
    s.out[s.replayed]? = some c := by
  have hc := congrArg (fun l : List PinCode => l[0]?) h
  simpa [State.pending] using hc

theorem State.out_of_pending_nil {s : State} (h : s.pending = []) : s.out[s.replayed]? = none :=
  List.getElem?_eq_none (List.drop_eq_nil_iff.1 h)

theorem State.pending_advance {s : State} {es : List PinEvent} {rest : List PinCode}
    (h : s.pending = es.map PinEvent.code ++ rest) : (s.advance es.length).pending = rest := by
  have hdrop : (s.advance es.length).pending = s.pending.drop es.length := List.drop_drop.symm
  rw [hdrop, h, ← List.length_map (f := PinEvent.code), List.drop_left]

theorem driveEvent_pending (e : PinEvent) (s : State) : (driveEvent e s).pending = s.pending := by cases e <;> rfl

theorem driveAll_pending (es : List PinEvent) (s : State) : (driveAll es s).pending = s.pending := by
  induction es generalizing s with
  | nil => rfl
  | cons e es ih => exact (ih (driveEvent e s)).trans (driveEvent_pending e s)

/-- No pin event reads or moves the executor's position. -/
theorem driveEvent_advance (e : PinEvent) (s : State) (n : Nat) :
    driveEvent e (s.advance n) = (driveEvent e s).advance n := by cases e <;> rfl

theorem driveAll_advance (es : List PinEvent) (s : State) (n : Nat) :
    driveAll es (s.advance n) = (driveAll es s).advance n := by
  induction es generalizing s with
  | nil => rfl
  | cons e es ih =>
    calc driveAll es (driveEvent e (s.advance n))
        = driveAll es ((driveEvent e s).advance n) := by rw [driveEvent_advance]
      _ = (driveAll es (driveEvent e s)).advance n := ih (driveEvent e s)

/-- A step that replays an event. -/
theorem step_event {s : State} {e : PinEvent} {rest : List PinCode} (hl : latchedWord s.chips = none)
    (hp : s.pending = e.code :: rest) : step s = .next ((driveEvent e s).advance 1) := by
  simp only [step, fetch, hl, State.out_of_pending hp, fetchPin, decodePin_code]
  rw [← driveEvent_advance]
  exact exec_pinEvent e _

/-- A step that delivers the response, when all is replayed and performed (R227). -/
theorem step_deliver {s : State} {r : Response} (hl : latchedWord s.chips = none) (hp : s.pending = [])
    (hr : s.response = some r) : step s = .next (s.deliver r) := by
  simp only [step, fetch, hl, State.out_of_pending_nil hp, hr]

/-- As long as no chip latches, the executor replays event after event. -/
theorem stepN_events (es : List PinEvent) (rest : List PinCode) (s : State) (hl : latchedWord s.chips = none)
    (hp : s.pending = es.map PinEvent.code ++ rest) (hcsh : .csh ∉ es) :
    stepN es.length s = some ((driveAll es s).advance es.length) ∧ latchedWord (driveAll es s).chips = none := by
  induction es generalizing s with
  | nil => exact ⟨rfl, hl⟩
  | cons e es ih =>
    obtain ⟨hne, hes⟩ := List.ne_and_not_mem_of_not_mem_cons hcsh
    have hnone := driveEvent_latchedWord e s hne.symm hl
    have hnext : ((driveEvent e s).advance 1).pending = es.map PinEvent.code ++ rest :=
      State.pending_advance (es := [e]) ((driveEvent_pending e s).trans hp)
    obtain ⟨hrun, hlast⟩ := ih ((driveEvent e s).advance 1) hnone hnext hes
    rw [driveAll_advance] at hrun hlast
    rw [List.length_cons, stepN_succ (step_event hl hp), hrun, State.advance_advance, Nat.add_comm 1]
    exact ⟨rfl, hlast⟩

/-! ### The register writes of the chips -/

/-- What a register write does to the chip that performs it, in the k-th draw of free values, by the low 4 bits of its
address (R81, R100). -/
def Chip.write (w : RegWrite) (k : Nat) (c : Chip) : Chip :=
  match w.addr % 16 with
  | 0 => if w.data = 0 then c else c.freeControls k
  | 9 => c.controlWrite .decodeMode w.data k
  | 10 => c.controlWrite .intensity w.data k
  | 11 => c.controlWrite .scanLimit w.data k
  | 12 => c.controlWrite .shutdown w.data k
  | 13 => c.freeControls k
  | 14 => c.freeControls k
  | 15 => c.controlWrite .displayTest w.data k
  | a => c.setDigit (a - 1) w.data

/-- Every packet decodes, and its meaning is its register write at the chip that latched it (R81, R181). -/
theorem exec_packet (w : RegWrite) :
    ∃ i, decodePacket (packet w) = .ok i ∧ ∀ s, exec i s = .next (s.perform (Chip.write w)) := by
  have hd := w.data.isLt
  have hp := packet_toNat w
  have htop : bits (packet w) 15 12 = 0 := by simp only [bits, hp]; omega
  have haddr : bits (packet w) 11 8 = w.addr % 16 := by simp only [bits, hp]; omega
  have hdata : BitVec.ofNat 8 (bits (packet w) 7 0) = w.data := by
    apply BitVec.eq_of_toNat_eq
    simp only [bits, hp, BitVec.toNat_ofNat]
    omega
  have hlt : w.addr % 16 < 16 := Nat.mod_lt _ (by decide)
  unfold Chip.write
  simp only [decodePacket, htop, haddr, hdata, if_true]
  generalize w.addr % 16 = a at hlt
  interval_cases a
  · refine ⟨_, rfl, fun s => ?_⟩
    by_cases h0 : w.data = 0
    · simp only [exec, execNoop, if_pos h0]
    · simp only [exec, execNoop, if_neg h0]
  all_goals exact ⟨_, rfl, fun s => rfl⟩

theorem step_latched {s : State} {w : RegWrite} (h : latchedWord s.chips = some (packet w)) :
    step s = .next (s.perform (Chip.write w)) := by
  obtain ⟨i, hi, he⟩ := exec_packet w
  simp only [step, fetch, h, fetchPacket, hi, he]

/-- No register write reads or writes the shift register or the latch. -/
theorem Chip.write_withShift (w : RegWrite) (k : Nat) (c : Chip) (p : PktWord) (l : Option PktWord) :
    Chip.write w k { c with shift := p, latched := l } = { Chip.write w k c with shift := p, latched := l } := by
  have hctl (r : ControlReg) : Chip.controlWrite r w.data k { c with shift := p, latched := l } =
      { Chip.controlWrite r w.data k c with shift := p, latched := l } := by
    cases r <;> simp only [Chip.controlWrite] <;> (repeat' split) <;> rfl
  unfold Chip.write
  split
  case h_1 => split <;> rfl
  case h_2 => exact hctl _
  case h_3 => exact hctl _
  case h_4 => exact hctl _
  case h_5 => exact hctl _
  case h_8 => exact hctl _
  all_goals rfl

/-- The effect of the write uses no free value. -/
def FixedEffect (w : RegWrite) : Prop := ∀ k c, Chip.write w k c = Chip.write w 0 c

/-- A chip after the batch that carried it this write: the packet is in its shift register, performed and done with. -/
def Chip.receive (c : Chip) (w : RegWrite) : Chip := { Chip.write w 0 c with shift := packet w, latched := none }

/-- A chip that has latched the packet of a write. -/
def Chip.latch (c : Chip) (w : RegWrite) : Chip := { c with shift := packet w, latched := some (packet w) }

theorem Chip.write_latch {w : RegWrite} (hw : FixedEffect w) (k : Nat) (c : Chip) :
    { Chip.write w k (c.latch w) with latched := none } = c.receive w := by
  rw [Chip.latch, Chip.write_withShift, hw k c, Chip.receive]

/-- The chips that all latched their packets perform them one after the other, chip 0 first. -/
theorem stepN_perform (batch : List RegWrite) (pre cs : List Chip) (s : State) (hlen : batch.length = cs.length)
    (hpre : ∀ x ∈ pre, x.latched = none) (hs : s.chips = pre ++ List.zipWith Chip.latch cs batch)
    (hfixed : ∀ w ∈ batch, FixedEffect w) :
    stepN batch.length s =
      some { s with
        chips := pre ++ List.zipWith Chip.receive cs batch
        freeIndex := s.freeIndex + batch.length } := by
  induction batch generalizing pre cs s with
  | nil =>
    obtain rfl := List.length_eq_zero_iff.1 hlen.symm
    rw [List.zipWith_nil_left] at hs ⊢
    rw [← hs]
    rfl
  | cons w ws ih =>
    cases cs with
    | nil => simp at hlen
    | cons c cs =>
      rw [List.zipWith_cons_cons] at hs
      have hstep := step_latched (hs ▸ latchedWord_append pre _ (c.latch w) (packet w) hpre rfl)
      rw [s.perform_some _ pre _ (c.latch w) (packet w) hs hpre rfl,
        Chip.write_latch (hfixed w List.mem_cons_self)] at hstep
      rw [List.length_cons, stepN_succ hstep,
        ih (pre ++ [c.receive w]) cs _ (Nat.succ.inj hlen) (by simpa [or_imp, forall_and, Chip.receive] using hpre)
          (by simp) (fun x hx => hfixed x (List.mem_cons_of_mem _ hx))]
      simp [Nat.add_comm, Nat.add_left_comm]

/-! ### A command's batches reach the chips -/

/-- The state after m more events are replayed and performed, with the given chips: the clock is low again, and of the rest
only the lines and the draw counter have changed. -/
def AfterReplay (s t : State) (m : Nat) (cs : List Chip) : Prop :=
  ∃ l d f, t = { s with replayed := s.replayed + m, cs := l, clk := .low, din := d, chips := cs, freeIndex := f }

theorem AfterReplay.trans {s t u : State} {m n : Nat} {cs cs' : List Chip} (h : AfterReplay s t m cs)
    (h' : AfterReplay t u n cs') : AfterReplay s u (m + n) cs' := by
  obtain ⟨_, _, _, rfl⟩ := h
  obtain ⟨l, d, f, rfl⟩ := h'
  exact ⟨l, d, f, by rw [← Nat.add_assoc]⟩

theorem AfterReplay.pending {s t : State} {es : List PinEvent} {rest : List PinCode} {cs : List Chip}
    (h : AfterReplay s t es.length cs) (hp : s.pending = es.map PinEvent.code ++ rest) : t.pending = rest := by
  obtain ⟨l, d, f, rfl⟩ := h
  exact State.pending_advance hp

theorem latchedWord_receive (cs : List Chip) (batch : List RegWrite) :
    latchedWord (List.zipWith Chip.receive cs batch) = none := by
  induction cs generalizing batch with
  | nil => rfl
  | cons c cs ih =>
    cases batch with
    | nil => rfl
    | cons w ws => exact ih ws

/-- A latched packet is the packet: its bits [15:12] are 0 already (R71). -/
theorem writeField_packet (w : RegWrite) : writeField (packet w) = packet w := by
  apply BitVec.eq_of_toNat_eq
  have h : (packet w).toNat &&& (2 ^ 12 - 1) = (packet w).toNat := by
    rw [Nat.and_two_pow_sub_one_eq_mod, Nat.mod_eq_of_lt (packet_lt w)]
  simpa [writeField] using h

/-- The rising edge after a batch's bits: every chip latches its own packet (R175, R181). -/
theorem latchAll_shiftAll_wireBits (batch : List RegWrite) (cs : List Chip) (h : batch.length = cs.length) :
    latchAll (shiftAll (wireBits batch) cs) = List.zipWith Chip.latch cs batch := by
  rw [shiftAll_wireBits_of_length batch cs h, latchAll, List.map_zipWith]
  simp only [writeField_packet]
  rfl

/-- The lines and the chips after the events of a batch up to CSH. -/
theorem driveAll_serialize_upto_csh (batch : List RegWrite) (s : State) (hclk : s.clk = .low) :
    ∃ d f, driveAll (.csl :: clockBits none (wireBits batch)) s =
      { s with cs := .low, clk := .low, din := d, chips := shiftAll (wireBits batch) s.chips, freeIndex := f } := by
  obtain ⟨d, f, h⟩ := driveAll_clockBits (wireBits batch) none (s.driveCs false) hclk (fun v hv => by cases hv)
  refine ⟨d, f, h.trans ?_⟩
  rw [State.driveCs_chips, Bool.and_false]
  rfl

/-- The executor replays the events of one batch, with the clock low at the start, and then every chip performs its own
write (R171, R181). -/
theorem replay_batch (batch : List RegWrite) (rest : List PinCode) (s : State) (hl : latchedWord s.chips = none)
    (hclk : s.clk = .low) (hlen : batch.length = s.chips.length) (hfixed : ∀ w ∈ batch, FixedEffect w)
    (hp : s.pending = (serialize batch).map PinEvent.code ++ rest) :
    ∃ k t, stepN k s = some t ∧
      AfterReplay s t (serialize batch).length (List.zipWith Chip.receive s.chips batch) := by
  obtain ⟨d, f, hdrive⟩ := driveAll_serialize_upto_csh batch s hclk
  have hser : serialize batch = (.csl :: clockBits none (wireBits batch)) ++ [.csh] := rfl
  have hcsh : .csh ∉ PinEvent.csl :: clockBits none (wireBits batch) := by simpa using csh_notMem_clockBits none _
  generalize PinEvent.csl :: clockBits none (wireBits batch) = es at hdrive hser hcsh
  rw [hser, List.map_append, List.append_assoc] at hp
  obtain ⟨hrun, hnone⟩ := stepN_events es _ s hl hp hcsh
  have hpend : ((driveAll es s).advance es.length).pending = PinEvent.csh.code :: rest :=
    State.pending_advance ((driveAll_pending es s).trans hp)
  have hrise := step_event (s := (driveAll es s).advance es.length) hnone hpend
  rw [driveEvent_advance, State.advance_advance] at hrise
  have hlatched : (((driveEvent .csh (driveAll es s)).advance (es.length + 1))).chips =
      [] ++ List.zipWith Chip.latch s.chips batch := by
    rw [hdrive, ← latchAll_shiftAll_wireBits batch s.chips hlen]
    rfl
  have hperform := stepN_perform batch [] s.chips _ hlen (by simp) hlatched hfixed
  refine ⟨_, _, stepN_trans hrun ((stepN_succ hrise).trans hperform), .high, d, f + 1 + batch.length, ?_⟩
  rw [hdrive, hser, List.length_append]
  rfl

/-- The batches of a command one after the other: the executor replays all their events, and every chip performs its write of
each batch. -/
theorem replay_batches (bs : List (List RegWrite)) (rest : List PinCode) (s : State) (hl : latchedWord s.chips = none)
    (hclk : s.clk = .low) (hlen : ∀ b ∈ bs, b.length = s.chips.length) (hfixed : ∀ b ∈ bs, ∀ w ∈ b, FixedEffect w)
    (hp : s.pending = (bs.flatMap serialize).map PinEvent.code ++ rest) :
    ∃ k t, stepN k s = some t ∧ latchedWord t.chips = none ∧
      AfterReplay s t (bs.flatMap serialize).length (bs.foldl (List.zipWith Chip.receive) s.chips) := by
  induction bs generalizing s with
  | nil => exact ⟨0, s, rfl, hl, s.cs, s.din, s.freeIndex, by rw [← hclk]; rfl⟩
  | cons b bs ih =>
    obtain ⟨hb, hbs⟩ := List.forall_mem_cons.1 hlen
    obtain ⟨hfb, hfbs⟩ := List.forall_mem_cons.1 hfixed
    rw [List.flatMap_cons, List.map_append, List.append_assoc] at hp
    obtain ⟨k, t, hk, ht⟩ := replay_batch b _ s hl hclk hb hfb hp
    have hpend := ht.pending hp
    have hchips : t.clk = .low ∧ t.chips = List.zipWith Chip.receive s.chips b := by
      obtain ⟨_, _, _, rfl⟩ := ht
      exact ⟨rfl, rfl⟩
    obtain ⟨m, u, hm, hu, hmu⟩ := ih t (hchips.2 ▸ latchedWord_receive _ _) hchips.1
      (fun x hx => by simp [hchips.2, hbs x hx, hb]) hfbs hpend
    refine ⟨k + m, u, stepN_trans hk hm, hu, ?_⟩
    rw [List.flatMap_cons, List.length_append, List.foldl_cons, ← hchips.2]
    exact ht.trans hmu

/-- A command that has emitted its batches and its response: all is replayed, the chips perform all the batches' writes, the
response is delivered, and the block has its turn with its own state as the command left it. -/
theorem replay_and_deliver (bs : List (List RegWrite)) (s : State) (r : Response) (hl : latchedWord s.chips = none)
    (hclk : s.clk = .low) (hlen : ∀ b ∈ bs, b.length = s.chips.length) (hfixed : ∀ b ∈ bs, ∀ w ∈ b, FixedEffect w)
    (hp : s.pending = (bs.flatMap serialize).map PinEvent.code) (hr : s.response = some r) :
    ∃ k t, stepN k s = some t ∧ t.blockTurn ∧ t.port = s.port ∧ t.responses = s.responses ++ [r] ∧ t.cur = s.cur ∧
      t.chips = bs.foldl (List.zipWith Chip.receive) s.chips := by
  rw [← List.append_nil (List.map _ _)] at hp
  obtain ⟨k, t, hk, hnone, ht⟩ := replay_batches bs [] s hl hclk hlen hfixed hp
  have hpend := ht.pending hp
  obtain ⟨l, d, f, rfl⟩ := ht
  have hdeliver := step_deliver hnone hpend hr
  exact ⟨k + 1, _, stepN_trans hk (stepN_succ hdeliver), ⟨hnone, State.out_of_pending_nil hpend, rfl⟩, rfl, rfl, rfl, rfl⟩

/-! ### RESET at the port -/

/-- The block takes a one-word command from the port. -/
theorem step_command {s : State} {w : CmdWord} {rest : List CmdWord} {i : Instr} (ht : s.blockTurn)
    (hi : s.intake = []) (hp : s.port = w :: rest) (hd : decodeCommand [w] = .ok (i, [])) :
    step s = exec i { s with port := rest } := by
  obtain ⟨hlatch, hout, hresp⟩ := ht
  simp only [step, fetch, hlatch, hout, hresp, fetchBlock, hi, hp, fetchCommand, hd, List.nil_append]

/-- In its turn the block finds every event replayed, so what a command emits is all that is pending. -/
theorem State.Inv.replayed_eq {s : State} (h : s.Inv) (ht : s.blockTurn) : s.replayed = s.out.length :=
  Nat.le_antisymm h.replayedBound (List.getElem?_eq_none_iff.1 ht.2.1)

theorem State.pending_of_emitted {s t : State} {es : List PinCode} (hout : t.out = s.out ++ es)
    (hrep : t.replayed = s.out.length) : t.pending = es := by
  rw [State.pending, hout, hrep, List.drop_left]

/-- The write that clears row r of a display. -/
def clearRow (r : Nat) : RegWrite := ⟨RegName.digit r, 0⟩

/-- The writes a RESET sends to every display, in order: InitWrites (R142), then its draw clears every row (R141). -/
def resetWrites (g : Cfg) : List RegWrite := initWrites ++ (List.range g.dr).map clearRow

/-- Against the sentinel every row of an empty bitmap has changed (R24, R134). -/
theorem changedRows_sentinel (g : Cfg) (hg : g.legal = true) :
    changedRows g 0 sentinel = (List.range g.dr).map clearRow := by
  obtain ⟨_, hdr, hdc, hdc8, _⟩ := (Cfg.legal_iff g).1 hg
  have hchanged : ∀ r ∈ List.range g.dr, rowChanged g.dc 0 sentinel r = true := by
    intro r hr
    have hbit : r * g.dc < 64 := by
      have hr8 : r ≤ 7 := by have := List.mem_range.1 hr; omega
      exact lt_of_le_of_lt (Nat.mul_le_mul hr8 hdc8) (by decide)
    have hones : 0 ^^^ sentinel = BitVec.allOnes 64 := by decide
    have hset : (rowBits g.dc r (0 ^^^ sentinel)).getLsbD 0 = true := by
      rw [rowBits_getLsbD g.dc r 0 _ hdc8, hones, BitVec.getLsbD_allOnes]
      simp [hbit, Nat.lt_of_lt_of_le Nat.zero_lt_one hdc]
    rw [rowChanged, bne_iff_ne]
    intro hzero
    rw [hzero] at hset
    simp at hset
  rw [changedRows, List.filter_eq_self.2 hchanged]
  exact List.map_congr_left fun r _ => by simp [clearRow, rowWrite, rowBits]

/-- Displays with the same list of changed rows are sent that list, one write to all of them a batch (R136). -/
theorem stepBatches_replicate (n : Nat) (hn : 0 < n) (l : List RegWrite) :
    (List.range (stepCount (List.replicate n l))).map (stepBatch (List.replicate n l)) = l.map (List.replicate n) := by
  have hcount : stepCount (List.replicate n l) = l.length := by
    refine Nat.le_antisymm ((stepCount_le_iff _ _).2 fun x hx => by rw [List.eq_of_mem_replicate hx]) ?_
    exact (stepCount_le_iff _ _).1 le_rfl l (List.mem_replicate.2 ⟨hn.ne', rfl⟩)
  rw [hcount]
  apply List.ext_getElem (by simp)
  intro k hk _
  have hkl : k < l.length := by simpa using hk
  simp [stepBatch, hkl]

theorem Cfg.n_pos (g : Cfg) (hg : g.legal = true) : 0 < g.n := by
  obtain ⟨_, _, _, _, hv, hh, _⟩ := (Cfg.legal_iff g).1 hg
  exact Nat.mul_pos hv hh

/-- The draw of a RESET clears every row of every display (R141). -/
theorem drawBatches_blank (s : State) (hg : s.cfg.legal = true) :
    drawBatches s.blank = ((List.range s.cfg.dr).map clearRow).map (List.replicate s.cfg.n) := by
  rw [← stepBatches_replicate _ (s.cfg.n_pos hg), ← changedRows_sentinel _ hg]
  simp [drawBatches, changeLists]

/-- RESET's whole effect (R141, R142). -/
theorem exec_reset (s : State) (hg : s.cfg.legal = true) :
    exec .reset s = .next { s with
      out := s.out ++ (((resetWrites s.cfg).map (List.replicate s.cfg.n)).flatMap serialize).map PinEvent.code
      cur := List.replicate s.cfg.n 0
      prev := List.replicate s.cfg.n 0
      dirty := false
      response := some (.ok none) } := by
  have hbatches : ((resetWrites s.cfg).map (List.replicate s.cfg.n)).flatMap serialize =
      (initWrites.flatMap fun w => serialize (List.replicate s.cfg.n w)) ++
        (drawBatches s.blank).flatMap serialize := by
    rw [drawBatches_blank s hg, resetWrites, List.map_append, List.flatMap_append, List.flatMap_map]
  rw [hbatches]
  exact congrArg (fun t : State => Host.Outcome.next (t.respond (.ok none))) (reset_drawBody_eq s)

/-! ### The chips after a RESET -/

theorem Chip.write_control (r : ControlReg) (d : Byte) (k : Nat) (c : Chip) :
    Chip.write ⟨r.address, d⟩ k c = c.controlWrite r d k := by cases r <;> rfl

theorem Chip.write_resetValue (r : ControlReg) (k : Nat) (c : Chip) :
    Chip.write ⟨r.address, r.resetValue⟩ k c = c.setControl r r.resetValue := by
  rw [Chip.write_control, Chip.controlWrite_resetValue]

theorem Chip.write_digit (r : Nat) (hr : r < 8) (d : Byte) (k : Nat) (c : Chip) :
    Chip.write ⟨RegName.digit r, d⟩ k c = c.setDigit r d := by
  interval_cases r <;> rfl

/-- InitWrites are the reset values of the five control registers (R142). -/
theorem initWrites_eq_resetValues :
    initWrites = [ControlReg.displayTest, .decodeMode, .scanLimit, .intensity, .shutdown].map
      fun r => ⟨r.address, r.resetValue⟩ := rfl

theorem resetWrites_fixedEffect (g : Cfg) (hg : g.legal = true) : ∀ w ∈ resetWrites g, FixedEffect w := by
  intro w hw k c
  obtain ⟨_, hdr, _⟩ := (Cfg.legal_iff g).1 hg
  rw [resetWrites, initWrites_eq_resetValues, List.mem_append, List.mem_map, List.mem_map] at hw
  obtain ⟨r, _, rfl⟩ | ⟨r, hr, rfl⟩ := hw
  · rw [Chip.write_resetValue, Chip.write_resetValue]
  · have hr8 : r < 8 := Nat.lt_of_lt_of_le (List.mem_range.1 hr) hdr
    rw [clearRow, Chip.write_digit r hr8, Chip.write_digit r hr8]

/-- Batches that send one write to all displays: every chip receives the writes in order. -/
theorem foldl_receive_replicate (ws : List RegWrite) (cs : List Chip) :
    (ws.map (List.replicate cs.length)).foldl (List.zipWith Chip.receive) cs =
      cs.map (fun c => ws.foldl Chip.receive c) := by
  have hone (w : RegWrite) (ds : List Chip) :
      List.zipWith Chip.receive ds (List.replicate ds.length w) = ds.map (fun c => c.receive w) := by
    induction ds with
    | nil => rfl
    | cons d ds ih => exact congrArg (List.cons _) ih
  induction ws generalizing cs with
  | nil => simp
  | cons w ws ih =>
    have hnext := ih (cs.map (fun c => c.receive w))
    rw [List.length_map, List.map_map] at hnext
    rw [List.map_cons, List.foldl_cons, hone]
    exact hnext

/-- The initialization writes leave their values in the control registers and the Digit registers as they were (R31). -/
theorem initWrites_received (c : Chip) :
    (∀ r, (initWrites.foldl Chip.receive c).control r = r.resetValue) ∧
      (initWrites.foldl Chip.receive c).digits = c.digits :=
  ⟨fun r => by cases r <;> rfl, rfl⟩

/-- The writes that clear rows 0 to n - 1 clear those Digit registers and change no other register. -/
theorem clearRows_received (n : Nat) (hn : n ≤ 8) (c : Chip) :
    (∀ r, (((List.range n).map clearRow).foldl Chip.receive c).control r = c.control r) ∧
      ∀ r : Fin 8, (((List.range n).map clearRow).foldl Chip.receive c).digits[r.val] =
        if r.val < n then 0x00 else c.digits[r.val] := by
  induction n with
  | zero => exact ⟨fun _ => rfl, fun _ => rfl⟩
  | succ n ih =>
    obtain ⟨hctl, hdig⟩ := ih (Nat.le_of_succ_le hn)
    have hlast (b : Chip) : b.receive (clearRow n) =
        { b.setDigit n 0 with shift := packet (clearRow n), latched := none } := by
      rw [Chip.receive, clearRow, Chip.write_digit n hn]
    simp only [List.range_succ, List.map_append, List.map_singleton, List.foldl_append, List.foldl_cons,
      List.foldl_nil, hlast]
    refine ⟨fun r => (hctl r).symm ▸ by cases r <;> rfl, fun r => ?_⟩
    have hlt : r.val < n + 1 ↔ n = r.val ∨ r.val < n := by omega
    by_cases hr : n = r.val
    · simp [Chip.setDigit, hr]
    · simp [Chip.setDigit, hlt, hr, hdig]

/-- R31's table for one chip: the control registers hold their reset values, the Digit registers of the display's rows are
0, and those from DR up are as they were. -/
theorem resetWrites_received (g : Cfg) (hdr : g.dr ≤ 8) (c : Chip) :
    (∀ r, ((resetWrites g).foldl Chip.receive c).control r = r.resetValue) ∧
      ∀ r : Fin 8, ((resetWrites g).foldl Chip.receive c).digits[r.val] =
        if r.val < g.dr then 0x00 else c.digits[r.val] := by
  obtain ⟨hctl, hdig⟩ := initWrites_received c
  obtain ⟨hctl', hdig'⟩ := clearRows_received g.dr hdr (initWrites.foldl Chip.receive c)
  rw [resetWrites, List.foldl_append]
  exact ⟨fun r => (hctl' r).trans (hctl r), fun r => by rw [hdig', hdig]⟩

/-- Settles O59: the block takes the RESET and emits its batches; every chip receives each batch's write, the five control
values first, then a zero for every row; then the response is delivered. -/
theorem resetReachesEveryChip : Obligations.ResetReachesEveryChip := by
  intro s rest hinv hturn hintake hclk hport
  obtain ⟨_, hdr, _⟩ := (Cfg.legal_iff _).1 hinv.legal
  have hn : s.cfg.n = s.chips.length := hinv.chipsLength.symm
  obtain ⟨u, hstep, hout, hrep, huclk, huchips, huport, huresps, huresp⟩ : ∃ u, step s = .next u ∧
      u.out = s.out ++ (((resetWrites s.cfg).map (List.replicate s.cfg.n)).flatMap serialize).map PinEvent.code ∧
      u.replayed = s.replayed ∧ u.clk = s.clk ∧ u.chips = s.chips ∧ u.port = rest ∧ u.responses = s.responses ∧
      u.response = some (.ok none) :=
    ⟨_, (step_command hturn hintake hport (i := .reset) rfl).trans (exec_reset _ hinv.legal), rfl, rfl, rfl, rfl, rfl,
      rfl, rfl⟩
  have hlen : ∀ b ∈ (resetWrites s.cfg).map (List.replicate s.cfg.n), b.length = u.chips.length := by
    simp [hn, huchips]
  have hfixed : ∀ b ∈ (resetWrites s.cfg).map (List.replicate s.cfg.n), ∀ w ∈ b, FixedEffect w := by
    intro b hb w hw
    obtain ⟨x, hx, rfl⟩ := List.mem_map.1 hb
    rw [List.eq_of_mem_replicate hw]
    exact resetWrites_fixedEffect _ hinv.legal x hx
  obtain ⟨k, t, hk, ht, htport, htresps, _, htchips⟩ :=
    replay_and_deliver _ u (.ok none) (huchips ▸ hturn.1) (huclk.trans hclk) hlen hfixed
      (State.pending_of_emitted hout (hrep.trans (hinv.replayed_eq hturn))) huresp
  rw [huchips, hn, foldl_receive_replicate] at htchips
  refine ⟨k + 1, t, (stepN_succ hstep).trans hk, ht, htport.trans huport, huresps ▸ htresps, by simp [htchips],
    fun j b c hb hc => ?_⟩
  have hcb : c = (resetWrites s.cfg).foldl Chip.receive b := by
    rw [htchips, List.getElem?_map, hb] at hc
    exact (Option.some.inj hc).symm
  subst hcb
  obtain ⟨hctl, hdig⟩ := resetWrites_received s.cfg hdr b
  refine ⟨hctl .displayTest, hctl .decodeMode, hctl .scanLimit, hctl .intensity, hctl .shutdown, fun r hr => ?_,
    fun r hr => ?_⟩
  · rw [hdig, if_pos hr]
  · rw [hdig, if_neg (Nat.not_lt.2 hr)]

end Sys2Proof.Machine

/-! PROOFS. The statements about the memory and the agents' turns (20_memory.md).

First the coordinate mapping of R57, which is a number of mixed radix twice over; then what a step does in each of the turns
of R54 and R55, from which the order of commands, replay and responses follows. -/

namespace Sys2Proof.Machine

/-! ### The coordinate mapping (R57) -/

/-- A number of two digits, the lower one below n, is given by its quotient and its remainder. -/
theorem mul_add_eq_iff {a b n x : Nat} (hb : b < n) : a * n + b = x ↔ x / n = a ∧ x % n = b := by
  have hdigits := Nat.div_mod_unique (a := x) (d := a) (c := b) (Nat.zero_lt_of_lt hb)
  rw [hdigits, and_iff_left hb, Nat.add_comm, Nat.mul_comm]

theorem mul_add_lt_mul {a b m n : Nat} (ha : a < m) (hb : b < n) : a * n + b < m * n := by
  have hquot : (a * n + b) / n = a := ((mul_add_eq_iff hb).1 rfl).1
  rwa [← Nat.div_lt_iff_lt_mul (Nat.zero_lt_of_lt hb), hquot]

/-- The range test at coordinates that are not negative. -/
theorem Cfg.inRange_nat (g : Cfg) (row col : Nat) :
    g.inRange row col = true ↔ row < g.v * g.dr ∧ col < g.h * g.dc := by
  simp only [Cfg.inRange_iff, Cfg.tr, Cfg.tc]
  omega

/-- The display index gives back the block row and the block column of an in-range coordinate. -/
theorem Cfg.displayOf_eq_iff {g : Cfg} (hg : g.legal = true) {row col i : Nat} (hr : g.inRange row col = true) :
    g.displayOf row col = i ↔ i / g.h = row / g.dr ∧ i % g.h = col / g.dc := by
  obtain ⟨_, _, hdc, _⟩ := g.legal_iff.1 hg
  exact mul_add_eq_iff ((Nat.div_lt_iff_lt_mul hdc).2 ((g.inRange_nat row col).1 hr).2)

/-- The bit position gives back the row and the column inside the display. -/
theorem Cfg.bitOf_eq_iff {g : Cfg} (hg : g.legal = true) {row col b : Nat} :
    g.bitOf row col = b ↔ b / g.dc = row % g.dr ∧ b % g.dc = col % g.dc := by
  obtain ⟨_, _, hdc, _⟩ := g.legal_iff.1 hg
  exact mul_add_eq_iff (Nat.mod_lt col hdc)

theorem Cfg.displayOf_lt {g : Cfg} (hg : g.legal = true) {row col : Nat} (hr : g.inRange row col = true) :
    g.displayOf row col < g.v * g.h := by
  obtain ⟨hdr, _, hdc, _⟩ := g.legal_iff.1 hg
  obtain ⟨hrow, hcol⟩ := (g.inRange_nat row col).1 hr
  exact mul_add_lt_mul ((Nat.div_lt_iff_lt_mul hdr).2 hrow) ((Nat.div_lt_iff_lt_mul hdc).2 hcol)

/-- The display and the bit determine an in-range coordinate. -/
theorem Cfg.coordinate_unique {g : Cfg} (hg : g.legal = true) {row col row' col' : Nat}
    (hr : g.inRange row col = true) (hr' : g.inRange row' col' = true)
    (hdisplay : g.displayOf row col = g.displayOf row' col') (hbit : g.bitOf row col = g.bitOf row' col') :
    row = row' ∧ col = col' := by
  obtain ⟨hdiv, hdiv'⟩ := (displayOf_eq_iff hg hr).1 hdisplay
  obtain ⟨hrow, hcol⟩ := (displayOf_eq_iff hg hr').1 rfl
  obtain ⟨hmod, hmod'⟩ := (bitOf_eq_iff hg).1 hbit
  obtain ⟨hrowbit, hcolbit⟩ := (bitOf_eq_iff hg).1 (rfl : g.bitOf row' col' = _)
  exact ⟨Nat.ext_div_mod (hdiv.symm.trans hrow) (hmod.symm.trans hrowbit),
    Nat.ext_div_mod (hdiv'.symm.trans hcol) (hmod'.symm.trans hcolbit)⟩

/-- Every bit of every display has a coordinate: the block position from the display index, the offsets in the block from
the bit position. -/
theorem Cfg.coordinate_exists {g : Cfg} (hg : g.legal = true) {i b : Nat} (hi : i < g.v * g.h)
    (hb : b < g.dr * g.dc) :
    ∃ row col : Nat, g.inRange row col = true ∧ g.displayOf row col = i ∧ g.bitOf row col = b := by
  obtain ⟨_, _, hdc, _, _, hh, _⟩ := g.legal_iff.1 hg
  have hblock : i / g.h < g.v := (Nat.div_lt_iff_lt_mul hh).2 hi
  have hrowbit : b / g.dc < g.dr := (Nat.div_lt_iff_lt_mul hdc).2 hb
  have hcolbit : b % g.dc < g.dc := Nat.mod_lt b hdc
  obtain ⟨hdiv, hmod⟩ := (mul_add_eq_iff (a := i / g.h) hrowbit).1 rfl
  obtain ⟨hdiv', hmod'⟩ := (mul_add_eq_iff (a := i % g.h) hcolbit).1 rfl
  have hr := (g.inRange_nat (i / g.h * g.dr + b / g.dc) (i % g.h * g.dc + b % g.dc)).2
    ⟨mul_add_lt_mul hblock hrowbit, mul_add_lt_mul (Nat.mod_lt i hh) hcolbit⟩
  exact ⟨_, _, hr, (displayOf_eq_iff hg hr).2 ⟨hdiv.symm, hdiv'.symm⟩, (bitOf_eq_iff hg).2 ⟨hmod.symm, hmod'.symm⟩⟩

/-- Settles O8: display index and bit position are each a number of two digits, and their four digits are the quotients and
the remainders of the row by DR and of the column by DC. -/
theorem coordinateMapIsABijection : Obligations.CoordinateMapIsABijection := fun g hg =>
  ⟨g.inRange_iff, fun _ _ => ⟨rfl, rfl⟩, fun row col hr => ⟨Cfg.displayOf_lt hg hr, g.bitOf_lt hg row col⟩,
    fun _ _ _ _ => Cfg.coordinate_unique hg, fun _ _ => Cfg.coordinate_exists hg⟩

/-! ### What a step does in each turn (R54, R55) -/

/-- A word that decodes as a packet is the packet of a register write, which `exec_packet` gives its meaning. -/
theorem eq_packet_of_decodePacket {p : PktWord} {i : Instr} (h : decodePacket p = .ok i) : ∃ w, p = packet w := by
  have htop : bits p 15 12 = 0 := by
    by_contra hne
    simp only [decodePacket, if_neg hne, reduceCtorEq] at h
  refine ⟨⟨bits p 11 8, BitVec.ofNat 8 (bits p 7 0)⟩, BitVec.eq_of_toNat_eq ?_⟩
  rw [packet_toNat, BitVec.toNat_ofNat]
  simp only [bits] at htop ⊢
  omega

/-- A pin-event code that decodes is the code of that event. -/
theorem eq_code_of_decodePin {c : PinCode} {i : Instr} (h : decodePin c = .ok i) : ∃ e : PinEvent, c = e.code := by
  unfold decodePin at h
  split at h
  case h_1 hc => exact ⟨.csh, BitVec.eq_of_toNat_eq hc⟩
  case h_2 hc => exact ⟨.csl, BitVec.eq_of_toNat_eq hc⟩
  case h_3 hc => exact ⟨.ckh, BitVec.eq_of_toNat_eq hc⟩
  case h_4 hc => exact ⟨.ckl, BitVec.eq_of_toNat_eq hc⟩
  case h_5 hc => exact ⟨.dh, BitVec.eq_of_toNat_eq hc⟩
  case h_6 hc => exact ⟨.dl, BitVec.eq_of_toNat_eq hc⟩
  case h_7 => cases h

/-- A pin event changes only the lines, the chips and the draw counter. -/
theorem driveEvent_eq (e : PinEvent) (s : State) : ∃ cs clk din chips k,
    driveEvent e s = { s with cs := cs, clk := clk, din := din, chips := chips, freeIndex := k } := by
  cases e <;> exact ⟨_, _, _, _, _, rfl⟩

/-- No instruction delivers a response or moves the executor, and none takes back an event already emitted. -/
theorem exec_only_appends {i : Instr} {s t : State} (h : exec i s = .next t) :
    t.responses = s.responses ∧ t.replayed = s.replayed ∧ s.out <+: t.out := by
  obtain ⟨_, he⟩ | ⟨_, _, _, _, _, he⟩ | ⟨_, _, he⟩ | ⟨_, he⟩ | ⟨_, _, he⟩ | ⟨_, _, he⟩ | ⟨_, he⟩ | ⟨_, he⟩ | ⟨_, he⟩ |
    ⟨_, he⟩ := exec_cases i s <;> rw [he] at h <;> cases h
  case inr.inr.inr.inl => simp [reset_drawBody_eq]
  all_goals simp

/-- In the block's turn the step is the block's own. -/
theorem fetch_of_blockTurn {s : State} (ht : s.blockTurn) : fetch s = fetchBlock s := by
  obtain ⟨hlatch, hout, hresp⟩ := ht
  simp only [fetch, hlatch, hout, hresp]

/-- The block's turn delivers no response and replays nothing: it only adds events to the stream. -/
theorem blockTurn_only_appends {s t : State} (ht : s.blockTurn) (h : step s = .next t) :
    t.responses = s.responses ∧ t.replayed = s.replayed ∧ s.out <+: t.out := by
  rw [step, fetch_of_blockTurn ht] at h
  obtain ⟨i, p, q, hb⟩ | ⟨p, q, r, hb⟩ := fetchBlock_blockFetched s <;> rw [hb] at h
  · exact (exec_only_appends h :)
  · cases h
    simp

/-- Whose turn a completed step was, and what each agent does to the state in its turn: a chip writes a register, the executor
replays one event, the host gets a response, or the block is free and takes its own turn. -/
theorem step_next_turns {s t : State} (h : step s = .next t) :
    (∃ f, t = s.perform f) ∨
    (∃ cs clk din chips k, t = { s with
      replayed := s.replayed + 1, cs := cs, clk := clk, din := din, chips := chips, freeIndex := k }) ∨
    (latchedWord s.chips = none ∧ s.out[s.replayed]? = none ∧ ∃ r, s.response = some r ∧ t = s.deliver r) ∨
    s.blockTurn := by
  obtain ⟨p, _, ⟨i, hi, hs⟩ | hs⟩ | ⟨_, c, _, ⟨i, hi, hs⟩ | hs⟩ | ⟨hlatch, hout, r, hr, hs⟩ | ⟨hturn, _⟩ := step_cases s
  · obtain ⟨w, rfl⟩ := eq_packet_of_decodePacket hi
    obtain ⟨j, hj, he⟩ := exec_packet w
    cases hi.symm.trans hj
    cases (hs.trans (he s)).symm.trans h
    exact .inl ⟨_, rfl⟩
  · cases hs.symm.trans h
  · obtain ⟨e, rfl⟩ := eq_code_of_decodePin hi
    cases (decodePin_code e).symm.trans hi
    obtain ⟨cs, clk, din, chips, k, hd⟩ := driveEvent_eq e (s.advance 1)
    cases ((hs.trans (exec_pinEvent e (s.advance 1))).trans (congrArg _ hd)).symm.trans h
    exact .inr (.inl ⟨cs, clk, din, chips, k, rfl⟩)
  · cases hs.symm.trans h
  · cases hs.symm.trans h
    exact .inr (.inr (.inl ⟨hlatch, hout, r, hr, rfl⟩))
  · exact .inr (.inr (.inr hturn))

/-- Settles O50: outside the block's turn a chip's write, a replayed event or a delivered response is the whole step, and none
of the three writes a field of the block. -/
theorem noCommandStartsBeforeTheReplayEnds : Obligations.NoCommandStartsBeforeTheReplayEnds := by
  intro s t h hbusy
  obtain ⟨f, rfl⟩ | ⟨cs, clk, din, chips, k, rfl⟩ | ⟨_, _, r, _, rfl⟩ | hturn := step_next_turns h
  · simp
  · simp
  · simp
  · exact absurd hturn hbusy

/-- Settles O51: of the four turns only the delivery writes the responses, and it comes after the chips and the executor. -/
theorem responseFollowsTheReplay : Obligations.ResponseFollowsTheReplay := by
  intro s t h
  obtain ⟨f, rfl⟩ | ⟨cs, clk, din, chips, k, rfl⟩ | ⟨hlatch, hout, r, hr, rfl⟩ | hturn := step_next_turns h
  · exact .inl (s.perform_responses f)
  · exact .inl rfl
  · exact .inr ⟨hlatch, hout, r, hr, rfl, rfl⟩
  · exact .inl (blockTurn_only_appends hturn h).1

/-- Settles O52: the block's turn appends to the stream, the delivery to the responses, the executor moves on by one event. -/
theorem outputStreamIsAppendOnly : Obligations.OutputStreamIsAppendOnly := by
  intro s t h
  obtain ⟨f, rfl⟩ | ⟨cs, clk, din, chips, k, rfl⟩ | ⟨_, _, r, _, rfl⟩ | hturn := step_next_turns h
  · simp
  · simp
  · simp
  · obtain ⟨hresps, hrep, hout⟩ := blockTurn_only_appends hturn h
    simp [hresps, hrep, hout]

/-! ### The instruction a step runs -/

theorem step_packet {s : State} {w : PktWord} {i : Instr} (hl : latchedWord s.chips = some w)
    (hd : decodePacket w = .ok i) : step s = exec i s := by
  simp only [step, fetch, hl, fetchPacket, hd]

theorem step_pin {s : State} {c : PinCode} {i : Instr} (hl : latchedWord s.chips = none)
    (hc : s.out[s.replayed]? = some c) (hd : decodePin c = .ok i) :
    step s = exec i { s with replayed := s.replayed + 1 } := by
  simp only [step, fetch, hl, hc, fetchPin, hd]

/-- The block runs the command whose words have all arrived (R76). -/
theorem step_arrived {s : State} {w : CmdWord} {ws : List CmdWord} {i : Instr} (ht : s.blockTurn)
    (hi : s.intake = w :: ws) (hd : decodeCommand (w :: ws) = .ok (i, [])) :
    step s = exec i { s with intake := [] } := by
  simp only [step, fetch_of_blockTurn ht, fetchBlock, hi, fetchCommand, hd, List.nil_append]

/-- While words of an EXEC are missing, the block takes one payload word from the port (R76). -/
theorem step_payload {s : State} {w p : CmdWord} {ws rest : List CmdWord} {d : RegWrite} (ht : s.blockTurn)
    (hi : s.intake = w :: ws) (hd : decodeCommand (w :: ws) = .error .incomplete) (hp : s.port = p :: rest)
    (hpay : decodePayload p = some d) : step s = exec (.execPayload d.addr d.data) { s with port := rest } := by
  simp only [step, fetch_of_blockTurn ht, fetchBlock, hi, fetchCommand, hd, fetchPayload, hp, hpay,
    List.isEmpty_cons, Bool.false_eq_true, if_false]

/-- A payload code decodes to the EXEC.PAYLOAD of its register write. -/
theorem decode_payload_ok {p : CmdWord} {i : Instr} (h : decode (.payload p) = .ok i) :
    ∃ d, decodePayload p = some d ∧ i = .execPayload d.addr d.data := by
  simp only [decode] at h
  cases hd : decodePayload p with
  | none => simp [hd] at h
  | some d => exact ⟨d, rfl, by simpa [hd] using h.symm⟩

/-- Settles O49: one rule of the fetch for each clause. -/
theorem stepRunsTheDecodedInstruction : Obligations.StepRunsTheDecodedInstruction := by
  intro s i
  refine ⟨fun w => step_packet, fun c => step_pin, fun w rest => step_command, fun w ws => step_arrived,
    fun w ws p rest ht hi hd hp hpay => ?_⟩
  obtain ⟨d, hd', rfl⟩ := decode_payload_ok hpay
  exact step_payload ht hi hd hp hd'

end Sys2Proof.Machine

/-! PROOFS. The statements about the encodings (30_encoding.md).

First the fields of a word, as numbers and under a mask; then each of the four formats, with an equation for each OP of
the command decoder, which gives the two round trips; then how an EXEC arrives word by word at the port. -/

namespace Sys2Proof.Machine

/-! ### Fields of a word (R8) -/

theorem bits_lt {n : Nat} (v : BitVec n) (hi lo : Nat) : bits v hi lo < 2 ^ (hi + 1 - lo) :=
  Nat.mod_lt _ (Nat.two_pow_pos _)

theorem bits_shiftRight {n : Nat} (v : BitVec n) (k hi lo : Nat) : bits (v >>> k) hi lo = bits v (hi + k) (lo + k) := by
  rw [bits, bits, BitVec.toNat_ushiftRight, Nat.shiftRight_eq_div_pow, Nat.div_div_eq_div_mul, ← pow_add,
    Nat.add_comm k, Nat.add_right_comm hi, Nat.add_sub_add_right]

/-- The topmost field of a word is what a shift to the right leaves. -/
theorem toNat_shiftRight_eq_bits {n : Nat} (v : BitVec (n + 1)) (lo : Nat) : (v >>> lo).toNat = bits v n lo := by
  have hlt : v.toNat / 2 ^ lo < 2 ^ (n + 1 - lo) := by
    rw [Nat.div_lt_iff_lt_mul (Nat.two_pow_pos lo), ← pow_add]
    exact v.isLt.trans_le (Nat.pow_le_pow_right two_pos (by omega))
  rw [BitVec.toNat_ushiftRight, Nat.shiftRight_eq_div_pow, bits, Nat.mod_eq_of_lt hlt]

/-- Masking with ones at [hi:lo] leaves that field in its place. -/
theorem toNat_and_mask {n : Nat} (v : BitVec n) {m : BitVec n} {hi lo : Nat}
    (hm : m.toNat = (2 ^ (hi + 1 - lo) - 1) <<< lo) : (v &&& m).toNat = bits v hi lo <<< lo := by
  rw [BitVec.toNat_and, hm, bits, ← Nat.shiftRight_eq_div_pow]
  apply Nat.eq_of_testBit_eq
  intro k
  simp only [Nat.testBit_and, Nat.testBit_shiftLeft, Nat.testBit_two_pow_sub_one, Nat.testBit_mod_two_pow,
    Nat.testBit_shiftRight]
  by_cases hk : lo ≤ k
  · simp [hk, Bool.and_comm]
  · simp [hk]

theorem and_mask_eq_zero_iff {n : Nat} (v : BitVec n) {m : BitVec n} (hi lo : Nat)
    (hm : m.toNat = (2 ^ (hi + 1 - lo) - 1) <<< lo) : v &&& m = 0 ↔ bits v hi lo = 0 := by
  rw [← BitVec.toNat_inj, toNat_and_mask v hm]
  simp

/-- The data byte that the decoders read is the word's low byte (R71, R74). -/
theorem ofNat_bits_low {n : Nat} (v : BitVec n) : BitVec.ofNat 8 (bits v 7 0) = v.setWidth 8 := by
  apply BitVec.eq_of_toNat_eq
  simp only [bits, BitVec.toNat_ofNat, BitVec.toNat_setWidth]
  omega

/-! ### Packets (R71, R81, R100) -/

theorem bits_packet_top (w : RegWrite) : bits (packet w) 15 12 = 0 := by
  have := packet_lt w
  simp only [bits]
  omega

theorem bits_packet_addr (w : RegWrite) : bits (packet w) 11 8 = w.addr % 16 := by
  have := w.data.isLt
  simp only [bits, packet_toNat]
  omega

theorem packet_setWidth (w : RegWrite) : (packet w).setWidth 8 = w.data := by
  apply BitVec.eq_of_toNat_eq
  have := w.data.isLt
  simp only [BitVec.toNat_setWidth, packet_toNat]
  omega

/-- Settles O6: the three fields of a packet. -/
theorem packetCarriesMaskedAddressAndData : Obligations.PacketCarriesMaskedAddressAndData := by
  intro a d
  refine ⟨BitVec.eq_of_toNat_eq ?_, ?_, packet_setWidth ⟨a, d⟩⟩
  · exact (toNat_shiftRight_eq_bits _ 12).trans (bits_packet_top ⟨a, d⟩)
  · rw [toNat_and_mask (hi := 3) (lo := 0) _ (by decide), bits_shiftRight]
    exact bits_packet_addr ⟨a, d⟩

/-- Settles O7: the decoder reads back the masked address, and its table is the one of R100 row by row. -/
theorem packetAddressSelectsItsRegister : Obligations.PacketAddressSelectsItsRegister := by
  intro a d i hi
  have hlt : a % 16 < 16 := Nat.mod_lt a (by decide)
  simp only [decodePacket, bits_packet_top, bits_packet_addr, ofNat_bits_low, packet_setWidth, if_true]
  generalize a % 16 = k at hlt hi
  interval_cases k <;> cases hi <;> rfl

/-- Only the low 4 bits of an address reach the wire (R71). -/
theorem packet_mod (a : Nat) (d : Byte) : packet ⟨a % 16, d⟩ = packet ⟨a, d⟩ := by
  simp only [packet, Nat.mod_mod]

/-- A packet that decodes is the encoding of the instruction that its address field selects (R77 (f)). -/
theorem encode_of_decodePacket {p : PktWord} {i : Instr} (h : decodePacket p = .ok i) :
    i.wf = true ∧ encode i = .packet p := by
  obtain ⟨⟨a, d⟩, rfl⟩ := eq_packet_of_decodePacket h
  have hlt : a % 16 < 16 := Nat.mod_lt a (by decide)
  have htable := packetAddressSelectsItsRegister a d
  rw [← packet_mod]
  generalize a % 16 = k at hlt htable ⊢
  interval_cases k <;> cases (htable _ rfl).symm.trans h <;> exact ⟨rfl, rfl⟩

/-! ### Pin-event codes (R72) -/

/-- A pin-event code that decodes is the encoding of its event: 6 and 7 are reserved (R77 (e)). -/
theorem encode_of_decodePin {c : PinCode} {i : Instr} (h : decodePin c = .ok i) :
    i.wf = true ∧ encode i = .pin c := by
  obtain ⟨e, rfl⟩ := eq_code_of_decodePin h
  cases (decodePin_code e).symm.trans h
  cases e <;> exact ⟨rfl, rfl⟩

/-! ### Payload words (R74, R77 (c)) -/

/-- A payload word is read as a register write exactly if it is the F-PAY word of that write. -/
theorem decodePayload_eq_some_iff (p : CmdWord) (d : RegWrite) :
    decodePayload p = some d ↔ addrFits d.addr = true ∧ encodePayload d = p := by
  obtain ⟨a, d⟩ := d
  have hd := d.isLt
  simp only [decodePayload, encodePayload, writeFields, addrFits, decide_eq_true_eq, ofNat_bits_low]
  constructor
  · intro h
    split at h <;> cases h
    next hres =>
      have haddr := bits_lt p 15 8
      refine ⟨haddr, BitVec.eq_of_toNat_eq ?_⟩
      simp only [bits, BitVec.toNat_ofNat, BitVec.toNat_setWidth] at hres ⊢
      omega
  · rintro ⟨ha, rfl⟩
    have hres : bits (BitVec.ofNat 32 (a % 2 ^ 8 * 2 ^ 8 + d.toNat)) 31 16 = 0 := by
      simp only [bits, BitVec.toNat_ofNat]
      omega
    have haddr : bits (BitVec.ofNat 32 (a % 2 ^ 8 * 2 ^ 8 + d.toNat)) 15 8 = a := by
      simp only [bits, BitVec.toNat_ofNat]
      omega
    have hdata : (BitVec.ofNat 32 (a % 2 ^ 8 * 2 ^ 8 + d.toNat)).setWidth 8 = d := by
      apply BitVec.eq_of_toNat_eq
      simp only [BitVec.toNat_ofNat, BitVec.toNat_setWidth]
      omega
    rw [if_pos hres, haddr, hdata]

theorem encodePayload_of_fits {w : RegWrite} (hfit : w.addr < 256) :
    encodePayload w = BitVec.ofNat 32 (w.addr * 256 + w.data.toNat) :=
  congrArg (fun a => BitVec.ofNat 32 (a * 256 + w.data.toNat)) (Nat.mod_eq_of_lt hfit)

theorem decodePayload_eq_none_iff (p : CmdWord) : decodePayload p = none ↔ p >>> 16 ≠ 0 := by
  rw [ne_eq, ← BitVec.toNat_inj, toNat_shiftRight_eq_bits p 16, decodePayload]
  split <;> simp_all

theorem decodePayloads_cons (p : CmdWord) (ps : List CmdWord) :
    decodePayloads (p :: ps) = (decodePayload p).bind fun d => (decodePayloads ps).map (d :: ·) := by
  rw [decodePayloads]
  cases decodePayload p <;> cases decodePayloads ps <;> rfl

/-- The payload words of an EXEC are read as a batch exactly if they are the F-PAY words of its writes, in order. -/
theorem decodePayloads_eq_some_iff (ps : List CmdWord) (ds : List RegWrite) :
    decodePayloads ps = some ds ↔ (∀ d ∈ ds, addrFits d.addr = true) ∧ ds.map encodePayload = ps := by
  induction ps generalizing ds with
  | nil => cases ds <;> simp [decodePayloads]
  | cons p ps ih =>
    simp only [decodePayloads_cons, Option.bind_eq_some_iff, Option.map_eq_some_iff, decodePayload_eq_some_iff, ih]
    cases ds with
    | nil => simp
    | cons d ds => simp [and_and_and_comm]

/-- One payload word with a reserved bit set makes the whole payload unreadable (R77 (c)). -/
theorem decodePayloads_eq_none_iff (ps : List CmdWord) : decodePayloads ps = none ↔ ∃ p ∈ ps, p >>> 16 ≠ 0 := by
  induction ps with
  | nil => simp [decodePayloads]
  | cons p ps ih =>
    rw [List.exists_mem_cons_iff, ← ih, ← decodePayload_eq_none_iff, decodePayloads_cons]
    cases decodePayload p <;> simp

/-! ### Command words (R73) -/

theorem bits_commandWord_op {op : Nat} (hop : op < 16) (rest : Nat) : bits (commandWord op rest) 31 28 = op := by
  simp only [bits, commandWord, BitVec.toNat_ofNat]
  omega

/-- A field below OP is that field of the number put there. -/
theorem bits_commandWord (op rest : Nat) {hi lo : Nat} (hhi : hi < 28) (hlo : lo ≤ hi) :
    bits (commandWord op rest) hi lo = rest / 2 ^ lo % 2 ^ (hi + 1 - lo) := by
  have hdvd : 2 ^ (hi + 1) ∣ 2 ^ 28 := pow_dvd_pow 2 hhi
  have hlow : (op * 2 ^ 28 + rest % 2 ^ 28) % 2 ^ 32 % 2 ^ (hi + 1) = rest % 2 ^ (hi + 1) := by
    rw [Nat.mod_mod_of_dvd _ (hdvd.trans (by decide)), Nat.add_mod, Nat.mod_eq_zero_of_dvd (hdvd.mul_left op),
      Nat.mod_mod_of_dvd _ hdvd, Nat.zero_add, Nat.mod_mod]
  simp only [bits, commandWord, BitVec.toNat_ofNat]
  rw [← Nat.mod_mul_right_div_self, ← Nat.mod_mul_right_div_self, ← pow_add,
    show lo + (hi + 1 - lo) = hi + 1 by omega, hlow]

/-- A command word is its OP and its bits [27:0]. -/
theorem commandWord_of_bits {w : CmdWord} {op rest : Nat} (hop : bits w 31 28 = op) (hrest : rest = bits w 27 0) :
    commandWord op rest = w := by
  apply BitVec.eq_of_toNat_eq
  simp only [bits] at hop hrest
  simp only [commandWord, BitVec.toNat_ofNat]
  omega

/-- The OP field as the shift that selects it. -/
theorem op_of_shiftRight {w op : CmdWord} (h : w >>> 28 = op) : bits w 31 28 = op.toNat :=
  (toNat_shiftRight_eq_bits w 28).symm.trans (congrArg BitVec.toNat h)

section
variable {w : CmdWord} (rest : List CmdWord)

theorem decodeCommand_illegalOp0 (hop : bits w 31 28 = 0) :
    decodeCommand (w :: rest) = .ok (.illegalOp0 (BitVec.ofNat 28 (bits w 27 0)), rest) := by
  simp only [decodeCommand, hop]

theorem decodeCommand_setled (hop : bits w 31 28 = 1) : decodeCommand (w :: rest) =
    if bits w 27 25 = 0 then .ok (.setled (bits w 23 12) (bits w 11 0) (decide (bits w 24 24 = 1)), rest)
    else .error (.reservedBits w) := by
  simp only [decodeCommand, hop]

theorem decodeCommand_getled (hop : bits w 31 28 = 2) : decodeCommand (w :: rest) =
    if bits w 27 24 = 0 then .ok (.getled (bits w 23 12) (bits w 11 0), rest) else .error (.reservedBits w) := by
  simp only [decodeCommand, hop]

theorem decodeCommand_draw (hop : bits w 31 28 = 3) : decodeCommand (w :: rest) =
    if bits w 27 0 = 0 then .ok (.draw, rest) else .error (.reservedBits w) := by
  simp only [decodeCommand, hop]

theorem decodeCommand_reset (hop : bits w 31 28 = 4) : decodeCommand (w :: rest) =
    if bits w 27 0 = 0 then .ok (.reset, rest) else .error (.reservedBits w) := by
  simp only [decodeCommand, hop]

theorem decodeCommand_execall (hop : bits w 31 28 = 5) : decodeCommand (w :: rest) =
    if bits w 27 16 = 0 then .ok (.execall (bits w 15 8) (w.setWidth 8), rest) else .error (.reservedBits w) := by
  simp only [decodeCommand, hop, ofNat_bits_low]

theorem decodeCommand_numeric (hop : bits w 31 28 = 7) :
    decodeCommand (w :: rest) = .ok (.numeric (BitVec.ofNat 28 (bits w 27 0)), rest) := by
  simp only [decodeCommand, hop]

theorem decodeCommand_illegalOp8F (hop : 8 ≤ bits w 31 28) :
    decodeCommand (w :: rest) = .ok (.illegalOp8F (BitVec.ofNat 31 (bits w 30 0)), rest) := by
  simp only [decodeCommand]
  split
  case h_9 => rfl
  all_goals omega

end

section
variable {w : CmdWord} {rest : List CmdWord}

theorem payloadCount_exec (hop : bits w 31 28 = 6) : payloadCount w = bits w 27 0 := if_pos hop

theorem payloadCount_of_op_ne (hop : bits w 31 28 ≠ 6) : payloadCount w = 0 := if_neg hop

/-- An EXEC is incomplete until its COUNT payload words are there (R76). -/
theorem decodeCommand_exec_incomplete (hop : bits w 31 28 = 6) (hlt : rest.length < payloadCount w) :
    decodeCommand (w :: rest) = .error .incomplete := by
  rw [payloadCount_exec hop] at hlt
  simp only [decodeCommand, hop, if_pos hlt]

theorem decodeCommand_exec {batch : List RegWrite} (hop : bits w 31 28 = 6) (hlen : payloadCount w ≤ rest.length)
    (hps : decodePayloads (rest.take (payloadCount w)) = some batch) :
    decodeCommand (w :: rest) = .ok (.exec batch, rest.drop (payloadCount w)) := by
  rw [payloadCount_exec hop] at *
  simp only [decodeCommand, hop, if_neg (Nat.not_lt.2 hlen), hps]

theorem decodeCommand_exec_reserved (hop : bits w 31 28 = 6) (hlen : payloadCount w ≤ rest.length)
    (hps : decodePayloads (rest.take (payloadCount w)) = none) :
    decodeCommand (w :: rest) = .error (.reservedBits w) := by
  rw [payloadCount_exec hop] at *
  simp only [decodeCommand, hop, if_neg (Nat.not_lt.2 hlen), hps]

end

/-- COUNT is the number of payload words that an encoded EXEC brings. -/
theorem payloadCount_encoded_exec {batch : List RegWrite} (hlen : batch.length < 2 ^ 28) :
    payloadCount (commandWord 6 batch.length) = (batch.map encodePayload).length := by
  rw [payloadCount_exec (bits_commandWord_op (by decide) _), bits_commandWord 6 _ (by decide) (by decide),
    List.length_map]
  omega

/-- The 28-bit operand of a command word is its bits [27:0]. -/
theorem toNat_operand (w : CmdWord) : (BitVec.ofNat 28 (bits w 27 0)).toNat = bits w 27 0 := by
  rw [BitVec.toNat_ofNat, Nat.mod_eq_of_lt (bits_lt w 27 0)]

/-- SETLED's ON is its bit 24. -/
theorem toNat_onBit (w : CmdWord) : (decide (bits w 24 24 = 1)).toNat = bits w 24 24 := by
  have hlt := bits_lt w 24 24
  obtain h | h : bits w 24 24 = 0 ∨ bits w 24 24 = 1 := by omega
  all_goals rw [h]; rfl

theorem coordFields_bits (w : CmdWord) : coordFields (bits w 23 12) (bits w 11 0) = bits w 23 0 := by
  simp only [coordFields, bits, Int.toNat_natCast]
  omega

/-- The coordinates that fit are the numbers of 12 bits (R75). -/
theorem coordFits_iff (x : Int) : coordFits x = true ↔ ∃ n : Nat, n < 2 ^ 12 ∧ x = n := by
  simp only [coordFits, Bool.and_eq_true, decide_eq_true_eq]
  constructor
  · rintro ⟨h0, hlt⟩
    simp only [Config.coordW] at hlt
    exact ⟨x.toNat, by omega, by omega⟩
  · rintro ⟨n, hn, rfl⟩
    exact ⟨Int.natCast_nonneg n, by exact_mod_cast hn⟩

/-- The coordinates that a word carries fit. -/
theorem coordsFit_bits (w : CmdWord) : (coordFits (bits w 23 12) && coordFits (bits w 11 0)) = true :=
  Bool.and_eq_true_iff.2
    ⟨(coordFits_iff _).2 ⟨_, bits_lt w 23 12, rfl⟩, (coordFits_iff _).2 ⟨_, bits_lt w 11 0, rfl⟩⟩

/-- A command that is one word long: the word encodes the instruction it decodes to, or a reserved bit of it is set. -/
def DecodesAlone (w : CmdWord) (rest : List CmdWord) : Prop :=
  (∃ i, decodeCommand (w :: rest) = .ok (i, rest) ∧ i.wf = true ∧ encode i = .command [w]) ∨
  decodeCommand (w :: rest) = .error (.reservedBits w)

theorem decodesAlone_of_reservedTest {w : CmdWord} {rest : List CmdWord} {i : Instr} {p : Prop} [Decidable p]
    (hd : decodeCommand (w :: rest) = if p then .ok (i, rest) else .error (.reservedBits w))
    (hi : p → i.wf = true ∧ encode i = .command [w]) : DecodesAlone w rest := by
  by_cases h : p
  · exact .inl ⟨i, hd.trans (if_pos h), hi h⟩
  · exact .inr (hd.trans (if_neg h))

/-- No bit of a command word is ignored: OP and the fields that an instruction reads are the whole word (R77). -/
theorem decodesAlone_of_op_ne {w : CmdWord} (hne : bits w 31 28 ≠ 6) (rest : List CmdWord) : DecodesAlone w rest := by
  have hw {op r : Nat} (hop : bits w 31 28 = op) (hr : r = bits w 27 0) :
      Code.command [commandWord op r] = .command [w] := by rw [commandWord_of_bits hop hr]
  have hlt := bits_lt w 31 28
  obtain hop | hop | hop | hop | hop | hop | hop | hop : bits w 31 28 = 0 ∨ bits w 31 28 = 1 ∨ bits w 31 28 = 2 ∨
    bits w 31 28 = 3 ∨ bits w 31 28 = 4 ∨ bits w 31 28 = 5 ∨ bits w 31 28 = 7 ∨ 8 ≤ bits w 31 28 := by omega
  · exact .inl ⟨_, decodeCommand_illegalOp0 rest hop, rfl, hw hop (toNat_operand w)⟩
  · refine decodesAlone_of_reservedTest (decodeCommand_setled rest hop) fun h => ⟨coordsFit_bits w, hw hop ?_⟩
    rw [toNat_onBit, coordFields_bits]
    simp only [bits] at h ⊢
    omega
  · refine decodesAlone_of_reservedTest (decodeCommand_getled rest hop) fun h => ⟨coordsFit_bits w, hw hop ?_⟩
    rw [coordFields_bits]
    simp only [bits] at h ⊢
    omega
  · exact decodesAlone_of_reservedTest (decodeCommand_draw rest hop) fun h => ⟨rfl, hw hop h.symm⟩
  · exact decodesAlone_of_reservedTest (decodeCommand_reset rest hop) fun h => ⟨rfl, hw hop h.symm⟩
  · refine decodesAlone_of_reservedTest (decodeCommand_execall rest hop) fun h =>
      ⟨decide_eq_true (bits_lt w 15 8), hw hop ?_⟩
    simp only [writeFields, bits, BitVec.toNat_setWidth] at h ⊢
    omega
  · exact .inl ⟨_, decodeCommand_numeric rest hop, rfl, hw hop (toNat_operand w)⟩
  · refine .inl ⟨_, decodeCommand_illegalOp8F rest hop, rfl, ?_⟩
    refine congrArg (fun v => Code.command [v]) (BitVec.eq_of_toNat_eq ?_)
    simp only [bits, BitVec.toNat_ofNat] at hop ⊢
    omega

/-- Everything the first word of a list can be: a whole command with its payload words, an EXEC that is incomplete, or a
command that a reserved bit makes illegal (R76, R77). -/
theorem decodeCommand_cases (w : CmdWord) (rest : List CmdWord) :
    (payloadCount w ≤ rest.length ∧ ∃ i, decodeCommand (w :: rest) = .ok (i, rest.drop (payloadCount w)) ∧
      i.wf = true ∧ encode i = .command (w :: rest.take (payloadCount w))) ∨
    (rest.length < payloadCount w ∧ decodeCommand (w :: rest) = .error .incomplete) ∨
    (payloadCount w ≤ rest.length ∧ decodeCommand (w :: rest) = .error (.reservedBits w)) := by
  by_cases hop : bits w 31 28 = 6
  · obtain hlt | hle := Nat.lt_or_ge rest.length (payloadCount w)
    · exact .inr (.inl ⟨hlt, decodeCommand_exec_incomplete hop hlt⟩)
    cases hps : decodePayloads (rest.take (payloadCount w)) with
    | none => exact .inr (.inr ⟨hle, decodeCommand_exec_reserved hop hle hps⟩)
    | some batch =>
      obtain ⟨hfit, hmap⟩ := (decodePayloads_eq_some_iff _ batch).1 hps
      have hlen : batch.length = bits w 27 0 := by
        rw [← List.length_map (f := encodePayload), hmap, List.length_take_of_le hle, payloadCount_exec hop]
      refine .inl ⟨hle, _, decodeCommand_exec hop hle hps, ?_, ?_⟩
      · simp only [Instr.wf, countFits, hlen, Bool.and_eq_true, decide_eq_true_eq, List.all_eq_true]
        exact ⟨bits_lt w 27 0, hfit⟩
      · rw [encode, hmap, commandWord_of_bits hop hlen]
  · rw [payloadCount_of_op_ne hop]
    obtain hok | herr := decodesAlone_of_op_ne hop rest
    · exact .inl ⟨Nat.zero_le _, hok⟩
    · exact .inr (.inr ⟨Nat.zero_le _, herr⟩)

/-- Settles O3: an incomplete command is the one case in which payload words are missing. -/
theorem commandTakesItsPayloadWordsOnly : Obligations.CommandTakesItsPayloadWordsOnly := by
  constructor
  · intro w rest i more h
    obtain ⟨hle, j, hj, _⟩ | ⟨_, herr⟩ | ⟨_, herr⟩ := decodeCommand_cases w rest
    · cases hj.symm.trans h
      exact ⟨hle, rfl⟩
    · cases herr.symm.trans h
    · cases herr.symm.trans h
  · intro w rest
    obtain ⟨hle, j, hj, _⟩ | ⟨hlt, herr⟩ | ⟨hle, herr⟩ := decodeCommand_cases w rest
    · simp [hj, hle]
    · simp [herr, hlt]
    · simp [herr, hle]

/-- Settles O4: each mask is the reserved field that the decoder tests for that OP. -/
theorem setReservedBitsAreRejected : Obligations.SetReservedBitsAreRejected := by
  rintro w rest (⟨hop, hres⟩ | ⟨hop, hres⟩ | ⟨hop, hres⟩ | ⟨hop, hres⟩ | ⟨hop, hres⟩)
  · rw [decodeCommand_setled rest (op_of_shiftRight hop), if_neg (mt (and_mask_eq_zero_iff w 27 25 rfl).2 hres)]
  · rw [decodeCommand_getled rest (op_of_shiftRight hop), if_neg (mt (and_mask_eq_zero_iff w 27 24 rfl).2 hres)]
  · rw [decodeCommand_draw rest (op_of_shiftRight hop), if_neg (mt (and_mask_eq_zero_iff w 27 0 rfl).2 hres)]
  · rw [decodeCommand_reset rest (op_of_shiftRight hop), if_neg (mt (and_mask_eq_zero_iff w 27 0 rfl).2 hres)]
  · rw [decodeCommand_execall rest (op_of_shiftRight hop), if_neg (mt (and_mask_eq_zero_iff w 27 16 rfl).2 hres)]

/-! ### The round trips -/

theorem decode_command_iff (ws : List CmdWord) (i : Instr) :
    decode (.command ws) = .ok i ↔ decodeCommand ws = .ok (i, []) := by
  rw [decode]
  split <;> simp_all

/-- Settles O2: for each format, a code that decodes is the encoding of what it decodes to. -/
theorem encodeOfDecodeIsIdentity : Obligations.EncodeOfDecodeIsIdentity := by
  intro c i h
  cases c with
  | command ws =>
    rw [decode_command_iff] at h
    cases ws with
    | nil => cases h
    | cons w rest =>
      obtain ⟨hle, j, hj, hwf, henc⟩ | ⟨_, herr⟩ | ⟨_, herr⟩ := decodeCommand_cases w rest
      · have hdrop : rest.drop (payloadCount w) = [] := (Prod.mk.inj (Except.ok.inj (hj.symm.trans h))).2
        cases (hdrop ▸ hj).symm.trans h
        rw [List.take_of_length_le (List.drop_eq_nil_iff.1 hdrop)] at henc
        exact ⟨hwf, henc⟩
      · cases herr.symm.trans h
      · cases herr.symm.trans h
  | payload p =>
    obtain ⟨d, hd, rfl⟩ := decode_payload_ok h
    obtain ⟨hfit, rfl⟩ := (decodePayload_eq_some_iff p d).1 hd
    exact ⟨hfit, rfl⟩
  | packet p => exact encode_of_decodePacket h
  | pin c => exact encode_of_decodePin h

/-- The words of an EXEC are read as its batch: COUNT is the batch's length. -/
theorem decodeCommand_encoded_exec {batch : List RegWrite} (hlen : batch.length < 2 ^ 28)
    (hfit : ∀ d ∈ batch, addrFits d.addr = true) :
    decodeCommand (commandWord 6 batch.length :: batch.map encodePayload) = .ok (.exec batch, []) := by
  have hcount := payloadCount_encoded_exec hlen
  rw [decodeCommand_exec (bits_commandWord_op (by decide) _) hcount.le (batch := batch), hcount, List.drop_length]
  rw [hcount, List.take_length]
  exact (decodePayloads_eq_some_iff _ batch).2 ⟨hfit, rfl⟩

/-- The operand of NUMERIC and of ILLEGAL.OP0 is read back. -/
theorem operand_of_commandWord (op : Nat) (operand : BitVec 28) :
    BitVec.ofNat 28 (bits (commandWord op operand.toNat) 27 0) = operand := by
  apply BitVec.eq_of_toNat_eq
  rw [toNat_operand, bits_commandWord op _ (by decide) (by decide)]
  have := operand.isLt
  omega

/-- The coordinate fields are read back, with whatever number stands above them. -/
theorem bits_coordFields (op k : Nat) {row col : Nat} (hrow : row < 2 ^ 12) (hcol : col < 2 ^ 12) :
    bits (commandWord op (k * 2 ^ 24 + coordFields row col)) 23 12 = row ∧
      bits (commandWord op (k * 2 ^ 24 + coordFields row col)) 11 0 = col := by
  rw [bits_commandWord op _ (by decide) (by decide), bits_commandWord op _ (by decide) (by decide)]
  simp only [coordFields, Int.toNat_natCast]
  omega

theorem coordFields_lt (row col : Int) : coordFields row col < 2 ^ 24 := by
  simp only [coordFields]
  omega

theorem decodeCommand_encoded_setled {row col : Nat} (on : Bool) (hrow : row < 2 ^ 12) (hcol : col < 2 ^ 12) :
    decodeCommand [commandWord 1 (on.toNat * 2 ^ 24 + coordFields row col)] = .ok (.setled row col on, []) := by
  have hfields := coordFields_lt row col
  have hon := on.toNat_le
  obtain ⟨hr, hc⟩ := bits_coordFields 1 on.toNat hrow hcol
  have hres : bits (commandWord 1 (on.toNat * 2 ^ 24 + coordFields row col)) 27 25 = 0 := by
    rw [bits_commandWord 1 _ (by decide) (by decide)]
    omega
  have hval : bits (commandWord 1 (on.toNat * 2 ^ 24 + coordFields row col)) 24 24 = on.toNat := by
    rw [bits_commandWord 1 _ (by decide) (by decide)]
    omega
  rw [decodeCommand_setled [] (bits_commandWord_op (by decide) _), if_pos hres, hr, hc, hval]
  cases on <;> rfl

theorem decodeCommand_encoded_getled {row col : Nat} (hrow : row < 2 ^ 12) (hcol : col < 2 ^ 12) :
    decodeCommand [commandWord 2 (coordFields row col)] = .ok (.getled row col, []) := by
  have hfields := coordFields_lt row col
  obtain ⟨hr, hc⟩ := bits_coordFields 2 0 hrow hcol
  rw [Nat.zero_mul, Nat.zero_add] at hr hc
  have hres : bits (commandWord 2 (coordFields row col)) 27 24 = 0 := by
    rw [bits_commandWord 2 _ (by decide) (by decide)]
    omega
  rw [decodeCommand_getled [] (bits_commandWord_op (by decide) _), if_pos hres, hr, hc]

theorem decodeCommand_encoded_execall {addr : Nat} (data : Byte) (haddr : addr < 256) :
    decodeCommand [commandWord 5 (writeFields addr data)] = .ok (.execall addr data, []) := by
  have hdata := data.isLt
  have hres : bits (commandWord 5 (writeFields addr data)) 27 16 = 0 := by
    rw [bits_commandWord 5 _ (by decide) (by decide), writeFields]
    omega
  have ha : bits (commandWord 5 (writeFields addr data)) 15 8 = addr := by
    rw [bits_commandWord 5 _ (by decide) (by decide), writeFields]
    omega
  have hd : (commandWord 5 (writeFields addr data)).setWidth 8 = data := by
    rw [← ofNat_bits_low, bits_commandWord 5 _ (by decide) (by decide), writeFields]
    apply BitVec.eq_of_toNat_eq
    rw [BitVec.toNat_ofNat]
    omega
  rw [decodeCommand_execall [] (bits_commandWord_op (by decide) _), if_pos hres, ha, hd]

theorem decodeCommand_encoded_illegalOp8F (operand : BitVec 31) :
    decodeCommand [BitVec.ofNat 32 (2 ^ 31 + operand.toNat)] = .ok (.illegalOp8F operand, []) := by
  have hlt := operand.isLt
  have hop : 8 ≤ bits (BitVec.ofNat 32 (2 ^ 31 + operand.toNat)) 31 28 := by
    simp only [bits, BitVec.toNat_ofNat]
    omega
  have hoperand : BitVec.ofNat 31 (bits (BitVec.ofNat 32 (2 ^ 31 + operand.toNat)) 30 0) = operand := by
    apply BitVec.eq_of_toNat_eq
    simp only [bits, BitVec.toNat_ofNat]
    omega
  rw [decodeCommand_illegalOp8F [] hop, hoperand]

/-- Settles O1: row by row of the opcode table. -/
theorem decodeOfEncodeIsIdentity : Obligations.DecodeOfEncodeIsIdentity := by
  intro i hwf
  cases i with
  | setled row col on =>
    obtain ⟨hrow, hcol⟩ := Bool.and_eq_true_iff.1 hwf
    obtain ⟨r, hr, rfl⟩ := (coordFits_iff row).1 hrow
    obtain ⟨c, hc, rfl⟩ := (coordFits_iff col).1 hcol
    exact (decode_command_iff _ _).2 (decodeCommand_encoded_setled on hr hc)
  | getled row col =>
    obtain ⟨hrow, hcol⟩ := Bool.and_eq_true_iff.1 hwf
    obtain ⟨r, hr, rfl⟩ := (coordFits_iff row).1 hrow
    obtain ⟨c, hc, rfl⟩ := (coordFits_iff col).1 hcol
    exact (decode_command_iff _ _).2 (decodeCommand_encoded_getled hr hc)
  | draw => rfl
  | reset => rfl
  | execall addr data => exact (decode_command_iff _ _).2 (decodeCommand_encoded_execall data (of_decide_eq_true hwf))
  | exec batch =>
    obtain ⟨hlen, hfit⟩ := Bool.and_eq_true_iff.1 hwf
    exact (decode_command_iff _ _).2 (decodeCommand_encoded_exec (of_decide_eq_true hlen) (List.all_eq_true.1 hfit))
  | execPayload addr data =>
    have hd := (decodePayload_eq_some_iff _ ⟨addr, data⟩).2 ⟨hwf, rfl⟩
    simp only [encode, decode, hd]
  | numeric operand =>
    refine (decode_command_iff _ _).2 ?_
    rw [decodeCommand_numeric [] (bits_commandWord_op (by decide) _), operand_of_commandWord]
  | illegalOp0 operand =>
    refine (decode_command_iff _ _).2 ?_
    rw [decodeCommand_illegalOp0 [] (bits_commandWord_op (by decide) _), operand_of_commandWord]
  | illegalOp8F operand => exact (decode_command_iff _ _).2 (decodeCommand_encoded_illegalOp8F operand)
  | noop data => exact packetAddressSelectsItsRegister 0x0 data _ rfl
  | digit0 data => exact packetAddressSelectsItsRegister 0x1 data _ rfl
  | digit1 data => exact packetAddressSelectsItsRegister 0x2 data _ rfl
  | digit2 data => exact packetAddressSelectsItsRegister 0x3 data _ rfl
  | digit3 data => exact packetAddressSelectsItsRegister 0x4 data _ rfl
  | digit4 data => exact packetAddressSelectsItsRegister 0x5 data _ rfl
  | digit5 data => exact packetAddressSelectsItsRegister 0x6 data _ rfl
  | digit6 data => exact packetAddressSelectsItsRegister 0x7 data _ rfl
  | digit7 data => exact packetAddressSelectsItsRegister 0x8 data _ rfl
  | decodemode data => exact packetAddressSelectsItsRegister 0x9 data _ rfl
  | intensity data => exact packetAddressSelectsItsRegister 0xA data _ rfl
  | scanlimit data => exact packetAddressSelectsItsRegister 0xB data _ rfl
  | shutdown data => exact packetAddressSelectsItsRegister 0xC data _ rfl
  | addrD data => exact packetAddressSelectsItsRegister 0xD data _ rfl
  | addrE data => exact packetAddressSelectsItsRegister 0xE data _ rfl
  | displaytest data => exact packetAddressSelectsItsRegister 0xF data _ rfl
  | csh => exact decodePin_code .csh
  | csl => exact decodePin_code .csl
  | ckh => exact decodePin_code .ckh
  | ckl => exact decodePin_code .ckl
  | dh => exact decodePin_code .dh
  | dl => exact decodePin_code .dl

/-! ### An EXEC arriving at the port (R76) -/

/-- Settles O24: the two cases of the payload word's meaning. -/
theorem payloadWordJoinsItsExec : Obligations.PayloadWordJoinsItsExec := by
  intro s addr data
  constructor
  · intro h
    exact if_neg (mt List.isEmpty_iff.1 h)
  · intro h
    exact if_pos (List.isEmpty_iff.2 h)

theorem decodeCommand_incomplete {w : CmdWord} {ws : List CmdWord} (h : ws.length < payloadCount w) :
    decodeCommand (w :: ws) = .error .incomplete := (commandTakesItsPayloadWordsOnly.2 w ws).2 h

section
variable {s : State} {w : CmdWord} {ws rest : List CmdWord}

/-- The first word of an EXEC with a payload begins its intake. -/
theorem step_begin (ht : s.blockTurn) (hi : s.intake = []) (hp : s.port = w :: rest) (hw : 0 < payloadCount w) :
    step s = .next { s with port := rest, intake := [w] } := by
  simp only [step, fetch_of_blockTurn ht, fetchBlock, hi, hp, fetchCommand,
    decodeCommand_incomplete (ws := []) hw, List.isEmpty_nil, if_true]

/-- While words are missing, an empty port makes the block wait. -/
theorem step_wait (ht : s.blockTurn) (hi : s.intake = w :: ws) (hw : ws.length < payloadCount w) (hp : s.port = []) :
    step s = .next s := by
  simp only [step, fetch_of_blockTurn ht, fetchBlock, hi, hp, fetchCommand, decodeCommand_incomplete hw,
    fetchPayload, List.isEmpty_cons, Bool.false_eq_true, if_false]

/-- While words are missing, the next word on the port joins them: a legal one as an EXEC.PAYLOAD, a bad one unread. -/
theorem step_take {p : CmdWord} (ht : s.blockTurn) (hi : s.intake = w :: ws) (hw : ws.length < payloadCount w)
    (hp : s.port = p :: rest) : step s = .next { s with intake := s.intake ++ [p], port := rest } := by
  cases hd : decodePayload p with
  | some d =>
    obtain ⟨_, rfl⟩ := (decodePayload_eq_some_iff p d).1 hd
    rw [step_payload ht hi (decodeCommand_incomplete hw) hp hd]
    exact (payloadWordJoinsItsExec { s with port := rest } d.addr d.data).1 (by simp [hi])
  | none =>
    simp only [step, fetch_of_blockTurn ht, fetchBlock, hi, hp, fetchCommand, decodeCommand_incomplete hw,
      fetchPayload, List.isEmpty_cons, Bool.false_eq_true, if_false, hd, State.takePayload]

/-- A command with a reserved bit set is refused when its words are there (R77). -/
theorem step_refuse (ht : s.blockTurn) (hi : s.intake = w :: ws) {v : CmdWord}
    (hd : decodeCommand (w :: ws) = .error (.reservedBits v)) :
    step s = .next { s with intake := [], response := some (.illegalCommand w) } := by
  simp only [step, fetch_of_blockTurn ht, fetchBlock, hi, fetchCommand, hd, State.raise, State.respond]

end

theorem stepN_one {s t : State} (h : step s = .next t) : stepN 1 s = some t := by
  rw [stepN_succ h, stepN]

/-- The payload words that are missing are taken one a step. -/
theorem stepN_take {w : CmdWord} (ps : List CmdWord) {ws rest : List CmdWord} (s : State) (ht : s.blockTurn)
    (hi : s.intake = w :: ws) (hw : ws.length + ps.length ≤ payloadCount w) (hp : s.port = ps ++ rest) :
    stepN ps.length s = some { s with intake := s.intake ++ ps, port := rest } := by
  induction ps generalizing ws s with
  | nil =>
    obtain rfl : s.port = rest := hp
    simp [stepN]
  | cons p ps ih =>
    rw [List.length_cons, ← Nat.add_assoc, Nat.add_right_comm] at hw
    have hlt : ws.length < payloadCount w := by omega
    have hrest := ih (ws := ws ++ [p]) { s with intake := s.intake ++ [p], port := ps ++ rest } ht
      (by rw [hi, List.cons_append]) (by rwa [List.length_append, List.length_singleton]) rfl
    rw [List.append_assoc, List.singleton_append] at hrest
    exact (stepN_succ (step_take ht hi hlt hp)).trans hrest

/-- An EXEC with a payload is taken from the port, its command word first. -/
theorem stepN_arrive {s : State} {w : CmdWord} {ps rest : List CmdWord} (ht : s.blockTurn) (hi : s.intake = [])
    (hcount : payloadCount w = ps.length) (hps : ps ≠ []) (hp : s.port = w :: (ps ++ rest)) :
    stepN (ps.length + 1) s = some { s with intake := w :: ps, port := rest } := by
  have hpos : 0 < payloadCount w := hcount ▸ List.length_pos_of_ne_nil hps
  rw [stepN_succ (step_begin ht hi hp hpos)]
  exact stepN_take (ws := []) ps { s with port := ps ++ rest, intake := [w] } ht rfl (by simp [hcount]) rfl

/-- Settles O33: a wait or a take, as long as fewer words than COUNT have arrived. -/
theorem incompleteExecTakesWordsAndWaits : Obligations.IncompleteExecTakesWordsAndWaits := by
  intro s w ws ht hi hop hlt
  have hw : ws.length < payloadCount w := by
    rwa [toNat_and_mask (hi := 27) (lo := 0) w rfl, ← payloadCount_exec (op_of_shiftRight hop)] at hlt
  exact ⟨step_wait ht hi hw, fun p rest => step_take ht hi hw⟩

/-- Settles O32: all payload words are taken before any of them is looked at. -/
theorem badPayloadIsConsumedThenIllegal : Obligations.BadPayloadIsConsumedThenIllegal := by
  intro s w ps rest ht hi hw hlen hbad hp
  have hop : bits w 31 28 = 6 := by simp only [bits]; omega
  have hcount : payloadCount w = ps.length := by
    rw [payloadCount_exec hop]
    simp only [bits]
    omega
  have hne : ps ≠ [] := by
    rintro rfl
    simp at hbad
  have hdecode : decodeCommand (w :: ps) = .error (.reservedBits w) := by
    refine decodeCommand_exec_reserved hop hcount.le ?_
    rw [hcount, List.take_length]
    exact (decodePayloads_eq_none_iff ps).2 hbad
  have harrive := stepN_arrive ht hi hcount hne hp
  have hrefuse := step_refuse (s := { s with intake := w :: ps, port := rest }) ht rfl hdecode
  rw [stepN_trans harrive (stepN_one hrefuse), ← hi]

/-- Settles O31: the words that arrive are the encoding of the EXEC, so the last step decodes its batch. -/
theorem execArrivesThroughThePort : Obligations.ExecArrivesThroughThePort := by
  intro s batch rest ht hi hlen hfit hp
  have hcommand : BitVec.ofNat 32 (6 * 2 ^ 28 + batch.length) = commandWord 6 batch.length := by
    rw [commandWord, Nat.mod_eq_of_lt hlen]
  have hpayload : batch.map (fun w => BitVec.ofNat 32 (w.addr * 256 + w.data.toNat)) = batch.map encodePayload :=
    List.map_congr_left fun w hw => (encodePayload_of_fits (hfit w hw)).symm
  rw [hcommand, hpayload] at hp
  have hdecode := decodeCommand_encoded_exec hlen fun w hw => decide_eq_true (hfit w hw)
  obtain ⟨t, hexec⟩ := exec_goes (.exec batch) { s with port := rest }
  refine ⟨t, ?_, hexec⟩
  by_cases hb : batch = []
  · subst hb
    exact stepN_one ((step_command ht hi hp hdecode).trans hexec)
  · rw [if_neg hb]
    have harrive := stepN_arrive ht hi (payloadCount_encoded_exec hlen) (mt List.map_eq_nil_iff.1 hb) hp
    have hrun := step_arrived (s := { s with intake := _ :: _, port := rest }) ht rfl hdecode
    rw [List.length_map] at harrive
    refine stepN_trans (n := 1) harrive (stepN_one (hrun.trans ?_))
    rw [← hexec, ← hi]

end Sys2Proof.Machine

/-! PROOFS. The statements about the chip registers (40_register_model.md).

Each packet is a `State.perform` of one chip operation (R81, R181), so each statement is that operation at the chip which
latched the packet, with `State.perform_some` for the frame. -/

namespace Sys2Proof.Machine

/-! ### Named values (R111 to R114) -/

theorem ControlReg.named_decodeMode (d : Byte) :
    ControlReg.decodeMode.named d = true ↔ d = 0x00 ∨ d = 0x01 ∨ d = 0x0F ∨ d = 0xFF := by
  simp [ControlReg.named, DecodeMode.noDecode, DecodeMode.codeBFor0, DecodeMode.codeBFor3to0, DecodeMode.codeBFor7to0]

theorem ControlReg.named_scanLimit (d : Byte) : ControlReg.scanLimit.named d = true ↔ d.toNat ≤ 7 := by
  simp only [ControlReg.named, ScanLimit.digit0, ScanLimit.digits0to1, ScanLimit.digits0to2, ScanLimit.digits0to3,
    ScanLimit.digits0to4, ScanLimit.digits0to5, ScanLimit.digits0to6, ScanLimit.digits0to7, decide_eq_true_eq,
    List.mem_cons, List.not_mem_nil, or_false]
  bv_omega

theorem ControlReg.named_shutdown (d : Byte) : ControlReg.shutdown.named d = true ↔ d = 0x00 ∨ d = 0x01 := by
  simp [ControlReg.named, Shutdown.shutdown, Shutdown.normalOperation]

theorem ControlReg.named_displayTest (d : Byte) : ControlReg.displayTest.named d = true ↔ d = 0x00 ∨ d = 0x01 := by
  simp [ControlReg.named, DisplayTest.normalOperation, DisplayTest.testMode]

/-! ### The packets -/

theorem Chip.setDigit_eq (c : Chip) (r : Fin 8) (d : Byte) :
    c.setDigit r.val d = { c with digits := c.digits.set r.val d } := by
  have hset : c.digits.setIfInBounds r.val d = c.digits.set r.val d := by
    ext j hj
    rw [Vector.getElem_setIfInBounds, Vector.getElem_set]
  rw [Chip.setDigit, hset]

/-- The latch is not a control register. -/
theorem Chip.control_unlatched (c : Chip) (r : ControlReg) : { c with latched := none }.control r = c.control r := by
  cases r <;> rfl

/-- The packet of Digit r writes row r, whichever row it is (R102 to R109). -/
theorem exec_digit {r : Fin 8} {d : Byte} {i : Instr} (s : State)
    (hi : [Instr.digit0 d, .digit1 d, .digit2 d, .digit3 d, .digit4 d, .digit5 d, .digit6 d, .digit7 d][r.val]? = some i) :
    exec i s = .next (s.perform fun _ c => c.setDigit r.val d) := by
  fin_cases r <;> cases hi <;> rfl

/-- The padding packet is no operation on its chip (R101). -/
theorem exec_noop_padding (s : State) : exec (.noop 0) s = .next (s.perform fun _ c => c) := rfl

/-- The packet to a control register (R110 to R115). -/
def ControlReg.instr (r : ControlReg) (d : Byte) : Instr :=
  match r with
  | .decodeMode => .decodemode d
  | .intensity => .intensity d
  | .scanLimit => .scanlimit d
  | .shutdown => .shutdown d
  | .displayTest => .displaytest d

theorem exec_control (r : ControlReg) (d : Byte) (s : State) :
    exec (r.instr d) s = .next (s.perform (Chip.controlWrite r d)) := by
  cases r <;> rfl

/-- The chip that performs a packet to a control register holds every named value written; the other chips and the block
are unchanged. -/
theorem exec_control_named (s : State) (pre post : List Chip) (c : Chip) (w : PktWord) (r : ControlReg) (d : Byte)
    (hs : s.chips = pre ++ c :: post) (hpre : ∀ x ∈ pre, x.latched = none) (hc : c.latched = some w) :
    ∃ c' : Chip,
      exec (r.instr d) s = .next { s with chips := pre ++ c' :: post, freeIndex := s.freeIndex + 1 } ∧
      (r.named d = true → c'.control r = d) := by
  refine ⟨{ c.controlWrite r d s.freeIndex with latched := none }, ?_, fun hnamed => ?_⟩
  · rw [exec_control, s.perform_some _ pre post c w hs hpre hc]
  · rw [Chip.control_unlatched]
    exact c.controlWrite_holds r d s.freeIndex (.inr hnamed)

/-! ### The statements -/

/-- Settles O43: the packet writes its row at the chip that latched it. -/
theorem digitPacketsSetTheirRow : Obligations.DigitPacketsSetTheirRow := by
  intro s pre post c w d r i hs hpre hc hi
  rw [exec_digit s hi, s.perform_some _ pre post c w hs hpre hc, Chip.setDigit_eq]

/-- Settles O44: the operation on the chip is the identity, so only its latch changes. -/
theorem noOpPaddingIsIgnored : Obligations.NoOpPaddingIsIgnored := by
  intro s pre post c w hs hpre hc
  rw [exec_noop_padding, s.perform_some _ pre post c w hs hpre hc]

/-- Settles O46: each of the four packets is a write to its control register, which holds a named value. -/
theorem namedControlValuesAreHeld : Obligations.NamedControlValuesAreHeld := by
  intro s pre post c w d hs hpre hc
  have hwrite (r : ControlReg) := exec_control_named s pre post c w r d hs hpre hc
  obtain ⟨c1, hdecode, hc1⟩ := hwrite .decodeMode
  obtain ⟨c2, hscan, hc2⟩ := hwrite .scanLimit
  obtain ⟨c3, hshut, hc3⟩ := hwrite .shutdown
  obtain ⟨c4, htest, hc4⟩ := hwrite .displayTest
  rw [ControlReg.named_decodeMode] at hc1
  rw [ControlReg.named_scanLimit] at hc2
  rw [ControlReg.named_shutdown] at hc3
  rw [ControlReg.named_displayTest] at hc4
  exact ⟨c1, c2, c3, c4, hdecode, hscan, hshut, htest, hc1, hc2, hc3, hc4⟩

end Sys2Proof.Machine

/-! PROOFS. The statements about the grid and its diff engine (41_grid_diff.md).

First runs of several instructions and the cell accessors; then the lists of changed rows, the batches a draw makes of them
and how many events they are; last how a draw's batches reach the chips (R147). -/

namespace Sys2Proof.Machine

/-! ### Runs of several instructions -/

theorem execAll_cons {i : Instr} {s t : State} (is : List Instr) (h : exec i s = .next t) :
    execAll (i :: is) s = execAll is t := by
  rw [execAll, h]

theorem execAll_append (is js : List Instr) (s : State) :
    execAll (is ++ js) s = (execAll is s).bind (execAll js) := by
  induction is generalizing s with
  | nil => rfl
  | cons i is ih =>
    obtain ⟨t, ht⟩ := exec_goes i s
    rw [List.cons_append, execAll_cons _ ht, execAll_cons _ ht, ih]

/-- No run stops, and a property that each of its instructions keeps holds at its end. -/
theorem execAll_keeps {P : State → Prop} {is : List Instr} {s : State}
    (hstep : ∀ i ∈ is, ∀ t u, P t → exec i t = .next u → P u) (hs : P s) : ∃ t, execAll is s = some t ∧ P t := by
  induction is generalizing s with
  | nil => exact ⟨s, rfl, hs⟩
  | cons i is ih =>
    obtain ⟨hi, his⟩ := List.forall_mem_cons.1 hstep
    obtain ⟨t, ht⟩ := exec_goes i s
    rw [execAll_cons is ht]
    exact ih his (hi s t hs ht)

/-! ### The cell accessors -/

/-- An in-range coordinate is not negative, so it is the natural number that R57's formulas take. -/
theorem Cfg.inRange_toNat {g : Cfg} {row col : Int} (h : g.inRange row col = true) :
    g.inRange row.toNat col.toNat = true ∧ (row.toNat : Int) = row ∧ (col.toNat : Int) = col := by
  obtain ⟨hrow, _, hcol, _⟩ := (g.inRange_iff row col).1 h
  rw [Int.toNat_of_nonneg hrow, Int.toNat_of_nonneg hcol]
  exact ⟨h, rfl, rfl⟩

theorem State.Inv.displayAt_lt {s : State} (hs : s.Inv) {row col : Int} (hr : s.cfg.inRange row col = true) :
    s.displayAt row col < s.cur.length := by
  rw [hs.curLength]
  exact Cfg.displayOf_lt hs.legal (Cfg.inRange_toNat hr).1

theorem State.Inv.bitAt_lt {s : State} (hs : s.Inv) (row col : Int) : s.bitAt row col < 64 :=
  (s.cfg.bitOf_lt hs.legal _ _).trans_le (s.cfg.w_le hs.legal)

/-- The display and the bit determine an in-range coordinate of the abstract command interface (R57, R80). -/
theorem State.Inv.coordinate_unique {s : State} (hs : s.Inv) {row col row' col' : Int}
    (hr : s.cfg.inRange row col = true) (hr' : s.cfg.inRange row' col' = true)
    (hdisplay : s.displayAt row col = s.displayAt row' col') (hbit : s.bitAt row col = s.bitAt row' col') :
    row = row' ∧ col = col' := by
  obtain ⟨hnat, hrow, hcol⟩ := Cfg.inRange_toNat hr
  obtain ⟨hnat', hrow', hcol'⟩ := Cfg.inRange_toNat hr'
  obtain ⟨hrows, hcols⟩ := Cfg.coordinate_unique hs.legal hnat hnat' hdisplay hbit
  exact ⟨by rw [← hrow, hrows, hrow'], by rw [← hcol, hcols, hcol']⟩

/-- The word of an LED's display after a write of the LED (R133). -/
def State.wordWithLed (s : State) (row col : Int) (on : Bool) : DisplayWord :=
  setBit (s.cur.getD (s.displayAt row col) 0) (s.bitAt row col) on

/-- The bitmaps after a write of one LED (R133). -/
def State.curWithLed (s : State) (row col : Int) (on : Bool) : List DisplayWord :=
  s.cur.set (s.displayAt row col) (s.wordWithLed row col on)

theorem exec_setled_inRange {s : State} {row col : Int} (on : Bool) (hr : s.cfg.inRange row col = true) :
    exec (.setled row col on) s =
      .next { s with cur := s.curWithLed row col on, dirty := true, response := some (.ok none) } :=
  if_pos hr

theorem exec_getled_inRange {s : State} {row col : Int} (hr : s.cfg.inRange row col = true) :
    exec (.getled row col) s = .next { s with response := some (.ok (some (s.led row col))) } :=
  if_pos hr

/-- Out of range the only difference between the variants and the accessors is the response (R132, R133). -/
theorem exec_accessors_outOfRange {s : State} {row col : Int} (on : Bool) (hr : s.cfg.inRange row col = false) :
    exec (.setled row col on) s = .next { s with
      response := some (if s.cfg.checked then .outOfRange row col else .ok none) } ∧
    exec (.getled row col) s = .next { s with
      response := some (if s.cfg.checked then .outOfRange row col else .ok (some false)) } := by
  cases hc : s.cfg.checked <;> simp [exec, execSetled, execGetled, hr, hc, State.respond, State.raise]

theorem State.Inv.wordWithLed_getLsbD {s : State} (hs : s.Inv) (row col : Int) (on : Bool) (b : Nat) :
    (s.wordWithLed row col on).getLsbD b =
      if b = s.bitAt row col then on else (s.cur.getD (s.displayAt row col) 0).getLsbD b :=
  setBit_getLsbD _ _ _ _ (hs.bitAt_lt row col)

/-- Of all the bits of all the bitmaps only the LED's own changes. -/
theorem State.Inv.curWithLed_getLsbD {s : State} (hs : s.Inv) {row col : Int} (hr : s.cfg.inRange row col = true)
    (on : Bool) (i b : Nat) :
    ((s.curWithLed row col on).getD i 0).getLsbD b =
      if i = s.displayAt row col ∧ b = s.bitAt row col then on else (s.cur.getD i 0).getLsbD b := by
  by_cases hi : i = s.displayAt row col
  · subst hi
    rw [State.curWithLed, List.getD_eq_getElem?_getD, List.getElem?_set_self (hs.displayAt_lt hr), Option.getD_some,
      hs.wordWithLed_getLsbD]
    simp
  · rw [State.curWithLed, List.getD_eq_getElem?_getD, List.getElem?_set_ne (Ne.symm hi), if_neg (fun h => hi h.1),
      List.getD_eq_getElem?_getD]

/-- Settles O9: the new bitmaps differ from the old in the LED's bit, and no other field is written but `dirty` and the
response. -/
theorem setledInRangeWritesOneLed : Obligations.SetledInRangeWritesOneLed := fun _ _ _ on hs hr =>
  ⟨_, exec_setled_inRange on hr, rfl, List.length_set, hs.curWithLed_getLsbD hr on⟩

/-- Settles O10: in range the display's word is there, and the answer is its bit. -/
theorem getledInRangeReadsTheLed : Obligations.GetledInRangeReadsTheLed := by
  intro s row col hs hr
  have hword := List.getElem?_eq_getElem (hs.displayAt_lt hr)
  refine ⟨_, hword, ?_⟩
  rw [exec_getled_inRange hr, State.led, List.getD_eq_getElem?_getD, hword]
  rfl

/-- Settles O11: a coordinate beyond one of the four ends fails the range test. -/
theorem accessorsOutOfRange : Obligations.AccessorsOutOfRange := by
  intro s row col on hout
  apply exec_accessors_outOfRange on
  rw [← Bool.not_eq_true, Cfg.inRange_iff, Cfg.tr, Cfg.tc]
  omega

/-! ### Read after write (R140) -/

theorem State.led_congr {s t : State} (hcfg : t.cfg = s.cfg) (hcur : t.cur = s.cur) (row col : Int) :
    t.led row col = s.led row col := by
  simp only [State.led, State.displayAt, State.bitAt, hcfg, hcur]

/-- What a GETLED answers after a SETLED: the written value at its coordinate, the old one at every other. -/
theorem State.Inv.led_of_setled {s t : State} (hs : s.Inv) {row col row' col' : Int} {on : Bool}
    (hr : s.cfg.inRange row col = true) (hr' : s.cfg.inRange row' col' = true)
    (h : exec (.setled row' col' on) s = .next t) :
    t.led row col = if row = row' ∧ col = col' then on else s.led row col := by
  cases (exec_setled_inRange on hr').symm.trans h
  have hsame : s.displayAt row col = s.displayAt row' col' ∧ s.bitAt row col = s.bitAt row' col' ↔
      row = row' ∧ col = col' := by
    constructor
    · rintro ⟨hdisplay, hbit⟩
      exact hs.coordinate_unique hr hr' hdisplay hbit
    · rintro ⟨rfl, rfl⟩
      exact ⟨rfl, rfl⟩
  exact (hs.curWithLed_getLsbD hr' on _ _).trans (if_congr hsame rfl rfl)

/-- No instruction but a RESET and the LED's own SETLED changes what an LED holds. -/
theorem exec_keeps_led {i : Instr} {s t : State} {row col : Int} (hs : s.Inv) (hr : s.cfg.inRange row col = true)
    (hreset : i ≠ .reset) (hset : ∀ on, i ≠ .setled row col on) (h : exec i s = .next t) :
    t.led row col = s.led row col := by
  have hsame (hcur : t.cur = s.cur) := State.led_congr (exec_keeps_cfg h) hcur row col
  obtain ⟨_, he⟩ | ⟨row', col', on, hi, hr', _⟩ | ⟨_, _, he⟩ | ⟨hi, _⟩ | ⟨_, _, he⟩ | ⟨_, _, he⟩ | ⟨_, he⟩ | ⟨_, he⟩ |
    ⟨_, he⟩ | ⟨_, he⟩ := exec_cases i s
  case inr.inr.inr.inl => exact absurd hi hreset
  case inr.inl =>
    subst hi
    rw [hs.led_of_setled hr hr' h, if_neg]
    rintro ⟨rfl, rfl⟩
    exact hset on rfl
  all_goals
    rw [he] at h
    cases h
    exact hsame (by simp)

/-- A sound state in which the LED of an in-range coordinate is on or off. -/
def LedIs (row col : Int) (on : Bool) (s : State) : Prop :=
  s.Inv ∧ s.cfg.inRange row col = true ∧ s.led row col = on

/-- Settles O12: the SETLED puts the LED at its value, the instructions between keep it, and the GETLED answers it. -/
theorem readAfterWrite : Obligations.ReadAfterWrite := by
  intro s row col on is hs hr hbetween
  have hset := exec_setled_inRange on hr
  have hwritten : LedIs row col on
      { s with cur := s.curWithLed row col on, dirty := true, response := some (.ok none) } :=
    ⟨exec_keeps_inv hs hset, hr, (hs.led_of_setled hr hr hset).trans (if_pos ⟨rfl, rfl⟩)⟩
  obtain ⟨t, ht, _, hrt, hled⟩ := execAll_keeps (P := LedIs row col on) (is := is)
    (fun i hi u v ⟨hu, hru, hledu⟩ he => ⟨exec_keeps_inv hu he, by rwa [exec_keeps_cfg he],
      (exec_keeps_led hu hru (hbetween i hi).1 (hbetween i hi).2 he).trans hledu⟩) hwritten
  refine ⟨{ t with response := some (.ok (some on)) }, ?_, rfl⟩
  rw [execAll_cons _ hset, execAll_append, ht, Option.bind_some, execAll_cons [] (exec_getled_inRange hrt), hled]
  rfl

/-! ### The changed rows (R134, R135) -/

theorem rowBits_xor (dc r : Nat) (x y : DisplayWord) : rowBits dc r (x ^^^ y) = rowBits dc r x ^^^ rowBits dc r y := by
  apply BitVec.eq_of_getLsbD_eq
  intro k _
  simp [rowBits, Bool.and_xor_distrib_right]

theorem rowChanged_iff_rowBits_ne (dc r : Nat) (cur prev : DisplayWord) :
    rowChanged dc cur prev r = true ↔ rowBits dc r cur ≠ rowBits dc r prev := by
  rw [rowChanged, bne_iff_ne, rowBits_xor, ne_eq, ne_eq]
  exact not_congr BitVec.xor_eq_zero_iff

/-- A row has changed exactly if one of its LEDs has (R23, R134). -/
theorem rowChanged_iff {dc : Nat} (hdc : dc ≤ 8) (r : Nat) (cur prev : DisplayWord) :
    rowChanged dc cur prev r = true ↔ ∃ c < dc, cur.getLsbD (r * dc + c) ≠ prev.getLsbD (r * dc + c) := by
  rw [rowChanged_iff_rowBits_ne, ← not_iff_not]
  push Not
  constructor
  · intro heq c hc
    simpa [rowBits_getLsbD _ _ _ _ hdc, hc] using congrArg (fun w : DisplayWord => w.getLsbD c) heq
  · intro hsame
    apply BitVec.eq_of_getLsbD_eq
    intro c _
    rw [rowBits_getLsbD _ _ _ _ hdc, rowBits_getLsbD _ _ _ _ hdc]
    by_cases hc : c < dc
    · rw [hsame c hc]
    · simp [hc]

theorem changedRows_length_le (g : Cfg) (cur prev : DisplayWord) : (changedRows g cur prev).length ≤ g.dr := by
  rw [changedRows, List.length_map]
  exact (List.length_filter_le _ _).trans_eq List.length_range

theorem changedRows_self (g : Cfg) (x : DisplayWord) : changedRows g x x = [] := by
  have hsame : ∀ r ∈ List.range g.dr, ¬ rowChanged g.dc x x r = true :=
    fun r _ h => (rowChanged_iff_rowBits_ne g.dc r x x).1 h rfl
  rw [changedRows, List.filter_eq_nil_iff.2 hsame, List.map_nil]

/-- Settles O13: the row's bits are cut to the byte's eight, and from DC up they are 0. -/
theorem rowWriteCarriesTheCurrentRow : Obligations.RowWriteCarriesTheCurrentRow := by
  intro dc r c cur _ hdc _ hc
  refine ⟨rfl, ?_⟩
  rw [rowWrite_eq, BitVec.getLsbD_setWidth, rowBits_getLsbD _ _ _ _ hdc, decide_eq_true hc, Bool.true_and]

/-- Settles O14: the list is the changed ones of the rising rows 0 to DR - 1, each as its write. -/
theorem changedRowsAreTheDifferingRows : Obligations.ChangedRowsAreTheDifferingRows := by
  intro g cur prev hg
  obtain ⟨_, _, _, hdc, _⟩ := g.legal_iff.1 hg
  refine ⟨fun w => ?_, ?_, changedRows_length_le g cur prev⟩
  · rw [mem_changedRows]
    refine exists_congr fun r => and_congr_right fun _ => ?_
    rw [rowChanged_iff hdc, and_comm, eq_comm]
  · refine List.Pairwise.map _ (fun r r' hlt => ?_) (List.pairwise_lt_range.filter _)
    exact Nat.add_lt_add_left hlt 1

/-- A word in which only the bit of row r, column c changed has one changed row, r. -/
theorem changedRows_of_one_bit {g : Cfg} (hdc : g.dc ≤ 8) {cur prev : DisplayWord} {r c : Nat} (hr : r < g.dr)
    (hc : c < g.dc) (hbit : ∀ k, cur.getLsbD k ≠ prev.getLsbD k ↔ k = r * g.dc + c) :
    changedRows g cur prev = [rowWrite g.dc cur r] := by
  have hrow : ∀ r', rowChanged g.dc cur prev r' = true ↔ r' = r := by
    intro r'
    rw [rowChanged_iff hdc]
    simp only [hbit]
    constructor
    · rintro ⟨c', hc', heq⟩
      exact ((mul_add_eq_iff hc').1 heq).1.symm.trans ((mul_add_eq_iff hc).1 rfl).1
    · rintro rfl
      exact ⟨c, hc, rfl⟩
  have hfilter : (List.range g.dr).filter (rowChanged g.dc cur prev) = [r] := by
    rw [List.filter_congr fun r' _ => Bool.eq_iff_iff.2 ((hrow r').trans beq_iff_eq.symm), List.filter_beq,
      List.count_eq_one_of_mem List.nodup_range (List.mem_range.2 hr)]
    rfl
  rw [changedRows, hfilter, List.map_singleton]

/-! ### The batches of a draw (R136) -/

theorem changeLists_getElem? {s : State} {i : Nat} {x y : DisplayWord} (hx : s.cur[i]? = some x)
    (hy : s.prev[i]? = some y) : (changeLists s)[i]? = some (changedRows s.cfg x y) := by
  simp [changeLists, List.getElem?_zipWith, hx, hy]

theorem mem_changeLists {s : State} {l : List RegWrite} (hl : l ∈ changeLists s) :
    ∃ (i : Nat) (x y : DisplayWord), s.cur[i]? = some x ∧ s.prev[i]? = some y ∧ l = changedRows s.cfg x y := by
  obtain ⟨i, hi⟩ := List.mem_iff_getElem?.1 hl
  obtain ⟨x, y, hx, hy, heq⟩ := List.getElem?_zipWith_eq_some.1 hi
  exact ⟨i, x, y, hx, hy, heq.symm⟩

/-- Display i's write of batch k is the k-th of its own list, or the padding write. -/
theorem stepBatch_getD {ls : List (List RegWrite)} {i : Nat} {l : List RegWrite} (hl : ls[i]? = some l) (k : Nat) :
    (stepBatch ls k).getD i noopWrite = l.getD k noopWrite := by
  simp [stepBatch, hl]

/-- The first n places of a list no longer than n, with a value for the places beyond its end. -/
theorem map_getD_range {α : Type} (l : List α) (d : α) {n : Nat} (h : l.length ≤ n) :
    (List.range n).map (fun k => l.getD k d) = l ++ List.replicate (n - l.length) d := by
  apply List.ext_getElem
  · simp [h]
  · intro k hk _
    rw [List.getElem_map, List.getElem_range, List.getElem_append]
    split
    next hin => simp [hin]
    next hout => simp [Nat.le_of_not_lt hout]

theorem changedRows_length_le_drawBatches {s : State} {i : Nat} {x y : DisplayWord} (hx : s.cur[i]? = some x)
    (hy : s.prev[i]? = some y) : (changedRows s.cfg x y).length ≤ (drawBatches s).length := by
  rw [drawBatches_length]
  exact (stepCount_le_iff _ _).1 le_rfl _ (List.mem_of_getElem? (changeLists_getElem? hx hy))

/-- What the batches of a draw send to display i: batch k takes the k-th write of each list, so together they give the list
back, with padding behind it. -/
theorem drawBatches_getD {s : State} {i : Nat} {x y : DisplayWord} (hx : s.cur[i]? = some x)
    (hy : s.prev[i]? = some y) :
    (drawBatches s).map (fun b => b.getD i noopWrite) = changedRows s.cfg x y ++
      List.replicate ((drawBatches s).length - (changedRows s.cfg x y).length) noopWrite := by
  rw [← map_getD_range _ noopWrite (changedRows_length_le_drawBatches hx hy), drawBatches_length, drawBatches,
    List.map_map]
  exact List.map_congr_left fun k _ => stepBatch_getD (changeLists_getElem? hx hy) k

/-- Settles O15: the batches are as many as the longest list is long, and each display finds its list in them. -/
theorem drawSendsEachDisplayItsChangedRows : Obligations.DrawSendsEachDisplayItsChangedRows := fun s =>
  ⟨fun m hm => (drawBatches_length s).trans_le ((stepCount_le_iff _ m).2 hm),
    fun _ _ _ hx hy => ⟨changedRows_length_le_drawBatches hx hy, drawBatches_getD hx hy⟩⟩

theorem stepCount_changeLists_le (s : State) : stepCount (changeLists s) ≤ s.cfg.dr := by
  refine (stepCount_le_iff _ _).2 fun l hl => ?_
  obtain ⟨_, x, y, _, _, rfl⟩ := mem_changeLists hl
  exact changedRows_length_le _ x y

theorem drawBatches_mem_length {s : State} (hs : s.Inv) : ∀ b ∈ drawBatches s, b.length = s.cfg.n := by
  intro b hb
  obtain ⟨k, _, rfl⟩ := List.mem_map.1 hb
  rw [stepBatch_length, changeLists_length, hs.curLength, hs.prevLength, Nat.min_self]

/-! ### DRAW and RESET (R137, R141) -/

theorem exec_draw_clean {s : State} (h : s.dirty = false) :
    exec .draw s = .next { s with response := some (.ok none) } := by
  simp [exec, execDraw, h, State.respond]

theorem exec_draw_dirty {s : State} (h : s.dirty = true) :
    exec .draw s = .next { s with
      out := s.out ++ ((drawBatches s).flatMap serialize).map PinEvent.code
      prev := s.cur, dirty := false, response := some (.ok none) } :=
  if_pos h

/-- Settles O16: one equation for each value of `dirty`. -/
theorem drawResult : Obligations.DrawResult := fun _ => ⟨exec_draw_clean, exec_draw_dirty⟩

theorem draw_leaves_clean {s t : State} (h : exec .draw s = .next t) : t.dirty = false := by
  cases hd : s.dirty with
  | false => cases (exec_draw_clean hd).symm.trans h; exact hd
  | true => cases (exec_draw_dirty hd).symm.trans h; rfl

/-- Only an in-range SETLED and a RESET set `dirty`, and the RESET clears it again (R25). -/
theorem exec_keeps_clean {i : Instr} {s t : State} (hd : s.dirty = false)
    (hset : ∀ row col on, i = .setled row col on → s.cfg.inRange row col = false) (h : exec i s = .next t) :
    t.dirty = false := by
  obtain ⟨_, he⟩ | ⟨row, col, on, hi, hr, _⟩ | ⟨_, _, he⟩ | ⟨_, he⟩ | ⟨_, _, he⟩ | ⟨_, _, he⟩ | ⟨_, he⟩ | ⟨_, he⟩ |
    ⟨_, he⟩ | ⟨_, he⟩ := exec_cases i s
  case inr.inl => exact absurd hr (by simp [hset row col on hi])
  all_goals
    rw [he] at h
    cases h
    simp [hd]

/-- A state of the given geometry with `dirty` clear. -/
def CleanAt (g : Cfg) (s : State) : Prop := s.cfg = g ∧ s.dirty = false

/-- Settles O18: a DRAW leaves `dirty` clear, the instructions between keep it clear, and a DRAW then emits nothing. -/
theorem secondDrawEmitsNothing : Obligations.SecondDrawEmitsNothing := by
  intro s is hbetween
  obtain ⟨s', hdraw⟩ := exec_goes .draw s
  obtain ⟨t, ht, _, hclean⟩ := execAll_keeps (P := CleanAt s.cfg) (is := is)
    (fun i hi u v ⟨hcfg, hu⟩ he => ⟨(exec_keeps_cfg he).trans hcfg,
      exec_keeps_clean hu (fun row col on heq => hcfg ▸ (hbetween i hi).2 row col on heq) he⟩)
    ⟨exec_keeps_cfg hdraw, draw_leaves_clean hdraw⟩
  exact ⟨t, _, (execAll_cons is hdraw).trans ht, hclean, execAll_cons [] (exec_draw_clean hclean), rfl⟩

/-- Settles O19: the initialization writes and the cleared rows are one list, each of its writes a batch to all displays. -/
theorem resetResult : Obligations.ResetResult := by
  intro s hg
  rw [exec_reset s hg, List.flatMap_map]
  rfl

/-- Settles O20: RESET's own draw has left `dirty` clear. -/
theorem drawAfterResetEmitsNothing : Obligations.DrawAfterResetEmitsNothing := by
  intro s
  have hreset := congrArg (fun t : State => Host.Outcome.next (φ := Fault) (ρ := Refusal) (t.respond (.ok none)))
    (reset_drawBody_eq s)
  exact ⟨_, _, execAll_cons [] hreset, rfl, rfl, rfl, execAll_cons [] (exec_draw_clean rfl), rfl⟩

/-! ### One changed LED (R138) -/

/-- If all displays are as drawn but one, its list of changed rows is the only one that is not empty. -/
theorem zipWith_changedRows_set (g : Cfg) (ws : List DisplayWord) {i : Nat} (w : DisplayWord) (hi : i < ws.length) :
    List.zipWith (changedRows g) (ws.set i w) ws =
      (List.replicate ws.length []).set i (changedRows g w ws[i]) := by
  apply List.ext_getElem (by simp)
  intro j _ _
  rw [List.getElem_zipWith, List.getElem_set, List.getElem_set]
  split
  next h => simp [h]
  next h => simp [changedRows_self]

/-- A draw with one changed row of one display is one batch: the row's write there and the padding write elsewhere. -/
theorem stepBatches_single {n i : Nat} (hi : i < n) (w : RegWrite) :
    (List.range (stepCount ((List.replicate n []).set i [w]))).map (stepBatch ((List.replicate n []).set i [w])) =
      [(List.replicate n noopWrite).set i w] := by
  have hcount : stepCount ((List.replicate n []).set i [w]) = 1 := by
    refine Nat.le_antisymm ((stepCount_le_iff _ _).2 fun l hl => ?_) ?_
    · obtain hl | rfl := List.mem_or_eq_of_mem_set hl
      · simp [List.eq_of_mem_replicate hl]
      · exact le_rfl
    · exact (stepCount_le_iff _ _).1 le_rfl [w] (List.mem_set (by simpa using hi) _)
  simp [hcount, stepBatch, List.map_set]

/-- The write of one LED to the other value changes the LED's bit of its display's word and no other. -/
theorem State.Inv.wordWithLed_ne_iff {s : State} (hs : s.Inv) {row col : Int} {on : Bool} (hled : s.led row col ≠ on)
    (k : Nat) :
    (s.wordWithLed row col on).getLsbD k ≠ (s.cur.getD (s.displayAt row col) 0).getLsbD k ↔ k = s.bitAt row col := by
  rw [hs.wordWithLed_getLsbD]
  by_cases hk : k = s.bitAt row col
  · rw [if_pos hk, hk]
    exact iff_of_true hled.symm rfl
  · simp [hk]

/-- After the SETLED the LED's display has one changed row, and every other display none. -/
theorem State.Inv.drawBatches_one_led {s t : State} (hs : s.Inv) (hdrawn : s.cur = s.prev) {row col : Int} {on : Bool}
    (hr : s.cfg.inRange row col = true) (hled : s.led row col ≠ on) (h : exec (.setled row col on) s = .next t) :
    drawBatches t = [(List.replicate s.cfg.n noopWrite).set (s.displayAt row col)
      (rowWrite s.cfg.dc (s.wordWithLed row col on) (row.toNat % s.cfg.dr))] := by
  obtain ⟨hdr, _, hdc, hdc8, _⟩ := s.cfg.legal_iff.1 hs.legal
  have hi := hs.displayAt_lt hr
  have hrows := changedRows_of_one_bit hdc8 (Nat.mod_lt row.toNat hdr) (Nat.mod_lt col.toNat hdc)
    (hs.wordWithLed_ne_iff hled)
  have hlists := zipWith_changedRows_set s.cfg s.cur (s.wordWithLed row col on) hi
  rw [← List.getD_eq_getElem _ 0 hi, hrows, hs.curLength] at hlists
  cases (exec_setled_inRange on hr).symm.trans h
  rw [drawBatches, changeLists, ← hdrawn, State.curWithLed, hlists, stepBatches_single (hs.curLength ▸ hi)]

/-- Settles O17: the DRAW after the SETLED finds that one changed row. -/
theorem minimalDiff : Obligations.MinimalDiff := by
  intro s row col on hs hdrawn hr hled
  have hset := exec_setled_inRange on hr
  refine ⟨_, _, (execAll_cons _ hset).trans (execAll_cons [] (exec_draw_dirty rfl)),
    List.getElem?_set_self (hs.displayAt_lt hr), ?_⟩
  rw [hs.drawBatches_one_led hdrawn hr hled hset, List.flatMap_singleton]
  rfl

/-! ### How much is emitted (R146) -/

theorem wireBits_length (batch : List RegWrite) : (wireBits batch).length = 16 * batch.length := by
  induction batch with
  | nil => rfl
  | cons w ws ih => rw [wireBits_cons, List.length_append, ih, packetBits_length, List.length_cons]; rfl

/-- Every bit costs a clock pulse, and at most one data event (R172). -/
theorem clockBits_length (last : Option Bool) (vs : List Bool) :
    ∃ d ≤ vs.length, (clockBits last vs).length = 2 * vs.length + d := by
  induction vs generalizing last with
  | nil => exact ⟨0, le_rfl, rfl⟩
  | cons v vs ih =>
    obtain ⟨d, hd, hlen⟩ := ih (some v)
    by_cases hsame : last = some v
    · refine ⟨d, Nat.le_succ_of_le hd, ?_⟩
      rw [hsame, clockBits_same]
      simp only [List.length_cons, hlen]
      omega
    · refine ⟨d + 1, Nat.succ_le_succ hd, ?_⟩
      rw [clockBits_change last v vs hsame]
      simp only [List.length_cons, hlen]
      omega

/-- A batch's events: the two of chip-select, two for each of its bits, and the data events, of which the first bit has
one (R173). -/
theorem serialize_length {batch : List RegWrite} (hne : batch ≠ []) :
    ∃ d, 1 ≤ d ∧ d ≤ 16 * batch.length ∧ (serialize batch).length = 2 + 32 * batch.length + d := by
  have hbits := wireBits_length batch
  have hpos := List.length_pos_iff.2 hne
  cases hwire : wireBits batch with
  | nil =>
    rw [hwire, List.length_nil] at hbits
    omega
  | cons v vs =>
    obtain ⟨d, hd, hlen⟩ := clockBits_length (some v) vs
    rw [hwire, List.length_cons] at hbits
    refine ⟨d + 1, by omega, by omega, ?_⟩
    rw [serialize, hwire, clockBits_change none v vs (by simp)]
    simp only [List.length_cons, List.length_append, List.length_nil, hlen]
    omega

/-- Settles O21: the number of batches is the longest list's length, their width the number of displays. -/
theorem drawAndResetOutputSize : Obligations.DrawAndResetOutputSize := by
  refine ⟨fun s hs => ?_, fun batch => serialize_length, fun s hs => ?_⟩
  · exact ⟨drawBatches_length s, (drawBatches_length s).trans_le (stepCount_changeLists_le s),
      drawBatches_mem_length hs, fun hd => ⟨_, exec_draw_dirty hd, rfl⟩⟩
  · refine ⟨_, _, exec_reset s hs.legal, ?_, ?_, rfl⟩
    · rw [List.length_map, resetWrites, List.length_append, List.length_map, List.length_range]
      rfl
    · intro b hb
      obtain ⟨w, _, rfl⟩ := List.mem_map.1 hb
      exact List.length_replicate

/-! ### The raw paths (R144, R145) -/

/-- Settles O23: EXECALL's meaning as it stands, and EXEC's for either outcome of its length test. -/
theorem rawPathsSendTheirBatch : Obligations.RawPathsSendTheirBatch := fun _ _ _ _ =>
  ⟨rfl, fun h => if_pos h, fun h => if_neg h⟩

/-! ### The packets to other registers than the Digits -/

/-- An effect on a chip that leaves its Digit registers and its shift register, in every draw of free values. -/
def KeepsDigits (f : Nat → Chip → Chip) : Prop := ∀ k c, (f k c).digits = c.digits ∧ (f k c).shift = c.shift

theorem controlWrite_keepsDigits (r : ControlReg) (d : Byte) : KeepsDigits (Chip.controlWrite r d) := fun k c =>
  have ⟨hshift, _, hdigits⟩ := c.controlWrite_keeps r d k
  ⟨hdigits, hshift⟩

theorem freeControls_keepsDigits : KeepsDigits Chip.freeControls := fun _ _ => ⟨rfl, rfl⟩

/-- Every packet to an address but a Digit's has an effect of that kind. -/
theorem exec_other_packet {d : Byte} {i : Instr}
    (hi : i ∈ [Instr.noop d, .decodemode d, .intensity d, .scanlimit d, .shutdown d, .addrD d, .addrE d, .displaytest d]) :
    ∃ f, KeepsDigits f ∧ ∀ s, exec i s = .next (s.perform f) := by
  have hcontrol (r : ControlReg) : ∃ f, KeepsDigits f ∧ ∀ s, exec (r.instr d) s = .next (s.perform f) :=
    ⟨_, controlWrite_keepsDigits r d, exec_control r d⟩
  simp only [List.mem_cons, List.not_mem_nil, or_false] at hi
  obtain rfl | rfl | rfl | rfl | rfl | rfl | rfl | rfl := hi
  · by_cases hd : d = 0
    · exact ⟨fun _ c => c, fun _ _ => ⟨rfl, rfl⟩, fun _ => if_pos hd⟩
    · exact ⟨_, freeControls_keepsDigits, fun _ => if_neg hd⟩
  · exact hcontrol .decodeMode
  · exact hcontrol .intensity
  · exact hcontrol .scanLimit
  · exact hcontrol .shutdown
  · exact ⟨_, freeControls_keepsDigits, fun _ => rfl⟩
  · exact ⟨_, freeControls_keepsDigits, fun _ => rfl⟩
  · exact hcontrol .displayTest

/-- Settles O47: the chip that latched the packet performs it, and its effect leaves the Digit registers. -/
theorem otherPacketsKeepTheDigits : Obligations.OtherPacketsKeepTheDigits := by
  intro s pre post c w d i hs hpre hc hi
  obtain ⟨f, hf, he⟩ := exec_other_packet hi
  obtain ⟨hdigits, hshift⟩ := hf s.freeIndex c
  refine ⟨{ f s.freeIndex c with latched := none }, ?_, rfl, hdigits, hshift⟩
  rw [he, s.perform_some f pre post c w hs hpre hc]

/-! ### A draw reaches the chips (R147) -/

theorem drawBatches_of_drawn {s : State} (h : s.cur = s.prev) : drawBatches s = [] := by
  have hcount : stepCount (changeLists s) ≤ 0 := by
    refine (stepCount_le_iff _ _).2 fun l hl => ?_
    obtain ⟨i, x, y, hx, hy, rfl⟩ := mem_changeLists hl
    obtain rfl : x = y := Option.some.inj (hx.symm.trans (h ▸ hy))
    rw [changedRows_self, List.length_nil]
  exact List.length_eq_zero_iff.1 (Nat.le_zero.1 ((drawBatches_length s).trans_le hcount))

/-- With `dirty` clear nothing has changed since the last draw (R30 (b)), so a DRAW does what DrawBody does either way. -/
theorem State.Inv.exec_draw {s : State} (hs : s.Inv) :
    exec .draw s = .next { s with
      out := s.out ++ ((drawBatches s).flatMap serialize).map PinEvent.code
      prev := s.cur, dirty := false, response := some (.ok none) } := by
  cases hd : s.dirty with
  | true => exact exec_draw_dirty hd
  | false =>
    have hdrawn := hs.cleanDrawn hd
    rw [exec_draw_clean hd, drawBatches_of_drawn hdrawn, hdrawn, ← hd]
    simp

/-- The padding write is ignored (R101). -/
theorem Chip.write_noopWrite (k : Nat) (c : Chip) : Chip.write noopWrite k c = c := by
  simp [Chip.write, noopWrite, RegName.noOp]

theorem fixedEffect_noopWrite : FixedEffect noopWrite := fun k c =>
  (c.write_noopWrite k).trans (c.write_noopWrite 0).symm

theorem fixedEffect_rowWrite (dc : Nat) (w : DisplayWord) {r : Nat} (hr : r < 8) : FixedEffect (rowWrite dc w r) :=
  fun k c => (Chip.write_digit r hr _ k c).trans (Chip.write_digit r hr _ 0 c).symm

/-- A draw sends only row writes and padding, whose effects on a chip the spec states. -/
theorem drawBatches_fixedEffect {s : State} (hg : s.cfg.legal = true) :
    ∀ b ∈ drawBatches s, ∀ w ∈ b, FixedEffect w := by
  intro b hb w hw
  obtain ⟨_, hdr, _⟩ := s.cfg.legal_iff.1 hg
  obtain ⟨k, _, rfl⟩ := List.mem_map.1 hb
  obtain ⟨l, hl, rfl⟩ := List.mem_map.1 hw
  obtain ⟨i, x, y, _, _, rfl⟩ := mem_changeLists hl
  by_cases hk : k < (changedRows s.cfg x y).length
  · rw [List.getD_eq_getElem _ _ hk]
    obtain ⟨r, hr, _, hrow⟩ := (mem_changedRows _ _ _ _).1 (List.getElem_mem hk)
    rw [← hrow]
    exact fixedEffect_rowWrite _ _ (hr.trans_le hdr)
  · rw [List.getD_eq_default _ _ (Nat.le_of_not_lt hk)]
    exact fixedEffect_noopWrite

theorem length_foldl_receive (bs : List (List RegWrite)) {cs : List Chip} (hlen : ∀ b ∈ bs, b.length = cs.length) :
    (bs.foldl (List.zipWith Chip.receive) cs).length = cs.length := by
  induction bs generalizing cs with
  | nil => rfl
  | cons b bs ih =>
    obtain ⟨hb, hbs⟩ := List.forall_mem_cons.1 hlen
    have hnext : (List.zipWith Chip.receive cs b).length = cs.length := by simp [hb]
    rw [List.foldl_cons, ih fun x hx => (hbs x hx).trans hnext.symm, hnext]

/-- Each chip receives, batch by batch, the writes at its own place. -/
theorem getElem?_foldl_receive (bs : List (List RegWrite)) {cs : List Chip} {j : Nat} {c : Chip} (hc : cs[j]? = some c)
    (hlen : ∀ b ∈ bs, b.length = cs.length) :
    (bs.foldl (List.zipWith Chip.receive) cs)[j]? = some ((bs.map (·.getD j noopWrite)).foldl Chip.receive c) := by
  induction bs generalizing cs c with
  | nil => exact hc
  | cons b bs ih =>
    obtain ⟨hb, hbs⟩ := List.forall_mem_cons.1 hlen
    have hj : j < b.length := hb ▸ (List.getElem?_eq_some_iff.1 hc).1
    refine ih ?_ fun x hx => by simp [hbs x hx, hb]
    simp [List.getElem?_zipWith, hc, hj]

theorem digits_foldl_receive_noop (m : Nat) (c : Chip) :
    ((List.replicate m noopWrite).foldl Chip.receive c).digits = c.digits := by
  induction m generalizing c with
  | zero => rfl
  | succ m ih =>
    rw [List.replicate_succ, List.foldl_cons, ih, Chip.receive, Chip.write_noopWrite]

/-- The writes of a list of rows leave each of the rows in its Digit register and the other Digit registers as they were. -/
theorem digits_foldl_receive_rows (dc : Nat) (w : DisplayWord) (rs : List Nat) (hrs : ∀ r ∈ rs, r < 8) (c : Chip)
    (r : Fin 8) :
    ((rs.map (rowWrite dc w)).foldl Chip.receive c).digits[r.val] =
      if r.val ∈ rs then (rowWrite dc w r.val).data else c.digits[r.val] := by
  induction rs generalizing c with
  | nil => simp
  | cons k rs ih =>
    obtain ⟨hk, hrs⟩ := List.forall_mem_cons.1 hrs
    have hone : (c.receive (rowWrite dc w k)).digits = c.digits.setIfInBounds k (rowWrite dc w k).data :=
      congrArg Chip.digits (Chip.write_digit k hk _ 0 c)
    rw [List.map_cons, List.foldl_cons, ih hrs, hone, Vector.getElem_setIfInBounds]
    by_cases hr : k = r.val
    · subst hr
      simp
    · simp [hr, Ne.symm hr]

/-- A chip that showed the old word shows the new one after the writes of the changed rows and the padding: a row that was
not sent has not changed. -/
theorem digits_after_draw {g : Cfg} (hg : g.legal = true) (x y : DisplayWord) (m : Nat) {c : Chip} {r : Fin 8}
    (hr : r.val < g.dr) (hc : c.digits[r.val] = (rowWrite g.dc y r.val).data) :
    ((changedRows g x y ++ List.replicate m noopWrite).foldl Chip.receive c).digits[r.val] =
      (rowWrite g.dc x r.val).data := by
  obtain ⟨_, hdr, _⟩ := g.legal_iff.1 hg
  have hrows : ∀ r ∈ (List.range g.dr).filter (rowChanged g.dc x y), r < 8 := fun r hr =>
    (List.mem_range.1 (List.mem_filter.1 hr).1).trans_le hdr
  rw [List.foldl_append, digits_foldl_receive_noop, changedRows, digits_foldl_receive_rows _ _ _ hrows]
  split
  next => rfl
  next hunsent =>
    have hsame : rowBits g.dc r.val x = rowBits g.dc r.val y := by
      by_contra hne
      exact hunsent (List.mem_filter.2 ⟨List.mem_range.2 hr, (rowChanged_iff_rowBits_ne _ _ _ _).2 hne⟩)
    rw [hc, rowWrite, rowWrite, hsame]

/-- Settles O60: the block takes the DRAW and emits its batches; the chip of display j receives that display's changed rows
and padding (`drawBatches_getD`), which bring it from `prev` to `cur`; then the response is delivered. -/
theorem drawReachesEveryChip : Obligations.DrawReachesEveryChip := by
  intro s rest hinv hturn hintake hclk hport hshown
  have hlegal := hinv.legal
  obtain ⟨u, hstep, hout, hrep, huclk, huchips, hucur, huport, huresps, huresp⟩ : ∃ u, step s = .next u ∧
      u.out = s.out ++ ((drawBatches s).flatMap serialize).map PinEvent.code ∧
      u.replayed = s.replayed ∧ u.clk = s.clk ∧ u.chips = s.chips ∧ u.cur = s.cur ∧ u.port = rest ∧
      u.responses = s.responses ∧ u.response = some (.ok none) :=
    ⟨_, (step_command hturn hintake hport (i := .draw) rfl).trans
      (State.Inv.exec_draw (s := { s with port := rest }) (hinv.of_eq rfl rfl rfl rfl rfl rfl rfl)),
      rfl, rfl, rfl, rfl, rfl, rfl, rfl, rfl⟩
  have hlen : ∀ b ∈ drawBatches s, b.length = s.chips.length := fun b hb =>
    (drawBatches_mem_length hinv b hb).trans hinv.chipsLength.symm
  obtain ⟨k, t, hk, ht, htport, htresps, htcur, htchips⟩ :=
    replay_and_deliver _ u (.ok none) (huchips ▸ hturn.1) (huclk.trans hclk) (huchips ▸ hlen)
      (drawBatches_fixedEffect hlegal) (State.pending_of_emitted hout (hrep.trans (hinv.replayed_eq hturn))) huresp
  rw [huchips] at htchips
  have htlen : t.chips.length = s.chips.length := by rw [htchips, length_foldl_receive _ hlen]
  refine ⟨k + 1, t, (stepN_succ hstep).trans hk, ht, htport.trans huport, huresps ▸ htresps, htcur.trans hucur, htlen,
    fun j c w hc hw r hr => ?_⟩
  have hj : j < s.chips.length := htlen ▸ (List.getElem?_eq_some_iff.1 hc).1
  have hchip := List.getElem?_eq_getElem hj
  have hprev := List.getElem?_eq_getElem (l := s.prev) (i := j) (by rwa [hinv.prevLength, ← hinv.chipsLength])
  rw [htchips, getElem?_foldl_receive _ hchip hlen, drawBatches_getD hw hprev] at hc
  rw [← Option.some.inj hc]
  exact digits_after_draw hlegal _ _ _ hr (hshown j _ _ hchip hprev r hr)

end Sys2Proof.Machine

/-! PROOFS. The statements about the serializer, the lines and the cascade (42_serializer.md).

First the bit string of a batch and the events it is clocked out by; then what each event does to its line and to the chips;
last a whole batch replayed from any state. -/

namespace Sys2Proof.Machine

/-! ### The bit string of a batch (R171) -/

theorem packetBits_getElem? (p : PktWord) {b : Nat} (hb : b < 16) : (packetBits p)[15 - b]? = some (p.getLsbD b) := by
  have hk : 15 - b < 16 := by omega
  have hback : 15 - (15 - b) = b := by omega
  simp [packetBits, hk, hback]

/-- The farthest display's packet comes first, each packet from bit 15 down. -/
theorem wireBits_getElem? {batch : List RegWrite} {i b : Nat} {w : RegWrite} (hi : batch[i]? = some w) (hb : b < 16) :
    (wireBits batch)[16 * (batch.length - 1 - i) + (15 - b)]? = some ((packet w).getLsbD b) := by
  induction batch generalizing i with
  | nil => simp at hi
  | cons x ws ih =>
    rw [wireBits_cons, List.length_cons, Nat.add_sub_cancel]
    cases i with
    | zero =>
      obtain rfl : x = w := by simpa using hi
      rw [Nat.sub_zero, List.getElem?_append_right (by rw [wireBits_length]; omega), wireBits_length,
        Nat.add_sub_cancel_left, packetBits_getElem? _ hb]
    | succ i =>
      have hlt : i < ws.length := Nat.lt_of_succ_lt_succ (List.getElem?_eq_some_iff.1 hi).1
      have hplace : ws.length - (i + 1) = ws.length - 1 - i := by omega
      rw [List.getElem?_append_left (by rw [wireBits_length]; omega), hplace]
      exact ih hi

/-- The first bit of a batch is bit 15 of a packet, which is 0 (R71, R179). -/
theorem wireBits_eq_false_cons {batch : List RegWrite} (hne : batch ≠ []) : ∃ vs, wireBits batch = false :: vs := by
  have hfirst := wireBits_getElem? (List.getLast?_eq_getElem? ▸ List.getLast?_eq_some_getLast hne) (show 15 < 16 by decide)
  have hbit (w : RegWrite) : (packet w).getLsbD 15 = false :=
    Nat.testBit_lt_two_pow ((packet_lt w).trans (by decide))
  rw [hbit, Nat.sub_self, Nat.sub_self] at hfirst
  cases hwire : wireBits batch with
  | nil => simp [hwire] at hfirst
  | cons v vs => exact ⟨vs, by simpa [hwire] using hfirst⟩

/-- The last bit of a batch is bit 0 of display 0's packet. -/
theorem wireBits_getLast? (w : RegWrite) (ws : List RegWrite) :
    (wireBits (w :: ws)).getLast? = some ((packet w).getLsbD 0) := by
  simp [wireBits_cons, packetBits, List.range_succ]

/-! ### The events of a bit string (R172, R173) -/

/-- The events of one bit, as in `clockBits`. -/
def bitEvents (last : Option Bool) (v : Bool) : List PinEvent :=
  if last = some v then [.ckh, .ckl] else [dataEvent v, .ckh, .ckl]

theorem clockBits_cons (last : Option Bool) (v : Bool) (vs : List Bool) :
    clockBits last (v :: vs) = bitEvents last v ++ clockBits (some v) vs := by
  rw [clockBits, bitEvents]
  split <;> rfl

/-- An event of the data line. -/
def isData (e : PinEvent) : Bool := e = .dh ∨ e = .dl

/-- An event of the clock line. -/
def isClock (e : PinEvent) : Bool := e = .ckh ∨ e = .ckl

theorem bitEvents_filter_isClock (last : Option Bool) (v : Bool) : (bitEvents last v).filter isClock = [.ckh, .ckl] := by
  unfold bitEvents
  split
  · rfl
  · cases v <;> rfl

theorem bitEvents_countP_isData (last : Option Bool) (v : Bool) :
    (bitEvents last v).countP isData = if last = some v then 0 else 1 := by
  unfold bitEvents
  split
  · rfl
  · cases v <;> rfl

/-- One bit costs a clock pulse and, where the level changes, one data event. -/
theorem bitEvents_length (last : Option Bool) (v : Bool) :
    (bitEvents last v).length = 2 + (bitEvents last v).countP isData := by
  rw [bitEvents_countP_isData, bitEvents]
  split <;> rfl

theorem csl_notMem_clockBits (last : Option Bool) (vs : List Bool) : PinEvent.csl ∉ clockBits last vs := by
  induction vs generalizing last with
  | nil => exact List.not_mem_nil
  | cons v vs ih =>
    have hbit : PinEvent.csl ∉ bitEvents last v := by
      unfold bitEvents
      split <;> cases v <;> decide
    rw [clockBits_cons, List.mem_append, not_or]
    exact ⟨hbit, ih _⟩

/-- Exactly one clock pulse for each bit, CKH before CKL. -/
theorem clockBits_filter_isClock (last : Option Bool) (vs : List Bool) :
    (clockBits last vs).filter isClock = (List.replicate vs.length [PinEvent.ckh, PinEvent.ckl]).flatten := by
  induction vs generalizing last with
  | nil => rfl
  | cons v vs ih =>
    rw [clockBits_cons, List.filter_append, bitEvents_filter_isClock, ih]
    rfl

/-- One data event for each bit that differs from the bit before it (R172). -/
theorem clockBits_countP_isData (v : Bool) (vs : List Bool) :
    (clockBits (some v) vs).countP isData =
      (List.range vs.length).countP (fun j => (v :: vs)[j + 1]? ≠ (v :: vs)[j]?) := by
  induction vs generalizing v with
  | nil => rfl
  | cons w vs ih =>
    rw [clockBits_cons, List.countP_append, bitEvents_countP_isData, ih, List.length_cons, List.range_succ_eq_map,
      List.countP_cons, List.countP_map, Nat.add_comm]
    congr 1
    by_cases h : v = w
    · simp [h]
    · simp [h, Ne.symm h]

theorem clockBits_length_eq (last : Option Bool) (vs : List Bool) :
    (clockBits last vs).length = 2 * vs.length + (clockBits last vs).countP isData := by
  induction vs generalizing last with
  | nil => rfl
  | cons v vs ih =>
    rw [clockBits_cons, List.length_append, List.countP_append, bitEvents_length, ih, List.length_cons]
    omega

/-- Which events may stand side by side in a batch: a data event follows CSL or CKL and precedes CKH. -/
def MayFollow (a b : PinEvent) : Prop := (isData b = true → a = .csl ∨ a = .ckl) ∧ (isData a = true → b = .ckh)

theorem isChain_clockBits (vs : List Bool) (last : Option Bool) {a : PinEvent} (ha : a = .csl ∨ a = .ckl) :
    (a :: (clockBits last vs ++ [.csh])).IsChain MayFollow := by
  have hnext (b : PinEvent) : MayFollow a b := ⟨fun _ => ha, fun hdata => by rcases ha with rfl | rfl <;> cases hdata⟩
  induction vs generalizing last a with
  | nil => exact List.isChain_cons_cons.2 ⟨hnext _, .singleton _⟩
  | cons v vs ih =>
    have hrest : (PinEvent.ckh :: .ckl :: (clockBits (some v) vs ++ [.csh])).IsChain MayFollow :=
      List.isChain_cons_cons.2 ⟨by simp [MayFollow, isData], ih (some v) (.inr rfl) (by simp [MayFollow, isData])⟩
    rw [clockBits_cons, bitEvents]
    split
    next => exact List.isChain_cons_cons.2 ⟨hnext _, hrest⟩
    next => exact List.isChain_cons_cons.2 ⟨hnext _, List.isChain_cons_cons.2 ⟨by simp [MayFollow, isData], hrest⟩⟩

/-! ### The framing of a batch (R173) -/

theorem serialize_getLast? (batch : List RegWrite) : (serialize batch).getLast? = some .csh := by
  simp [serialize, List.getLast?_cons]

theorem serialize_count_csl (batch : List RegWrite) : (serialize batch).count .csl = 1 := by
  simp [serialize, List.count_eq_zero.2 (csl_notMem_clockBits none (wireBits batch))]

theorem serialize_count_csh (batch : List RegWrite) : (serialize batch).count .csh = 1 := by
  simp [serialize, List.count_eq_zero.2 (csh_notMem_clockBits none (wireBits batch))]

theorem serialize_filter_isClock (batch : List RegWrite) :
    (serialize batch).filter isClock = (List.replicate (16 * batch.length) [PinEvent.ckh, PinEvent.ckl]).flatten := by
  rw [← wireBits_length, ← clockBits_filter_isClock none]
  simp [serialize, isClock]

theorem serialize_countP_isData {batch : List RegWrite} (hne : batch ≠ []) :
    (serialize batch).countP isData = 1 + (List.range (16 * batch.length - 1)).countP
      (fun j => (wireBits batch)[j + 1]? ≠ (wireBits batch)[j]?) := by
  obtain ⟨vs, hwire⟩ := wireBits_eq_false_cons hne
  have hlen : 16 * batch.length - 1 = vs.length := by rw [← wireBits_length, hwire]; rfl
  have hbits : (clockBits none (wireBits batch)).countP isData = 1 + (clockBits (some false) vs).countP isData := by
    rw [hwire, clockBits_cons, List.countP_append, bitEvents_countP_isData]
    rfl
  rw [hlen, hwire, ← clockBits_countP_isData, ← hbits]
  simp [serialize, isData]

theorem serialize_length_eq (batch : List RegWrite) :
    (serialize batch).length = 2 + 32 * batch.length + (serialize batch).countP isData := by
  have hcount : (serialize batch).countP isData = (clockBits none (wireBits batch)).countP isData := by
    simp [serialize, isData]
  have hlen := clockBits_length_eq none (wireBits batch)
  rw [wireBits_length] at hlen
  rw [hcount, serialize, List.length_cons, List.length_append, hlen, List.length_singleton]
  omega

/-- The neighbours of a data event: a batch starts with CSL and ends with CSH, so it has both. -/
theorem serialize_around_data {batch : List RegWrite} {k : Nat} {e : PinEvent} (hk : (serialize batch)[k]? = some e)
    (he : isData e = true) :
    1 ≤ k ∧ ((serialize batch)[k - 1]? = some .csl ∨ (serialize batch)[k - 1]? = some .ckl) ∧
      (serialize batch)[k + 1]? = some .ckh := by
  have hchain : (serialize batch).IsChain MayFollow := isChain_clockBits _ none (.inl rfl)
  have hlast := List.getLast?_eq_getElem? ▸ serialize_getLast? batch
  rw [List.isChain_iff_getElem] at hchain
  obtain ⟨hlt, hget⟩ := List.getElem?_eq_some_iff.1 hk
  cases k with
  | zero =>
    obtain rfl : PinEvent.csl = e := hget
    cases he
  | succ k =>
    have hnext : k + 1 + 1 < (serialize batch).length := by
      by_contra hend
      have hend : k + 1 = (serialize batch).length - 1 := by omega
      rw [← hend, hk] at hlast
      cases hlast
      cases he
    obtain ⟨hbefore, -⟩ := hchain k hlt
    obtain ⟨-, hafter⟩ := hchain (k + 1) hnext
    rw [hget] at hbefore hafter
    refine ⟨by omega, ?_, ?_⟩
    · rw [Nat.add_sub_cancel, List.getElem?_eq_getElem (by omega), Option.some_inj, Option.some_inj]
      exact hbefore he
    · rw [List.getElem?_eq_getElem hnext, hafter he]

/-- Settles O34, clause by clause. -/
theorem framingInvariant : Obligations.FramingInvariant := by
  intro batch hne
  have hcount := serialize_countP_isData hne
  have hle := List.countP_le_length (l := List.range (16 * batch.length - 1))
    (p := fun j => decide ((wireBits batch)[j + 1]? ≠ (wireBits batch)[j]?))
  rw [List.length_range] at hle
  have hpos := List.length_pos_iff.2 hne
  exact ⟨rfl, serialize_getLast? batch, serialize_count_csl batch, serialize_count_csh batch,
    serialize_filter_isClock batch, hcount, hcount ▸ Nat.le_add_right _ _, hcount.trans_le (by omega),
    serialize_length_eq batch, fun k e hk he => serialize_around_data hk (decide_eq_true he)⟩

/-! ### The data line (R171, R179) -/

/-- At each clock pulse the data line is at the level of the bit clocked, whether the bit has its own data event or not. -/
theorem dataAtPulses_clockBits (vs : List Bool) (last : Option Bool) (d : Bool) (hlast : ∀ v, last = some v → d = v) :
    dataAtPulses d (clockBits last vs ++ [.csh]) = vs := by
  induction vs generalizing last d with
  | nil => rfl
  | cons v vs ih =>
    have hrest := ih (some v) v fun _ hv => Option.some.inj hv
    by_cases hsame : last = some v
    · obtain rfl := hlast v hsame
      rw [hsame, clockBits_same]
      exact congrArg (List.cons d) hrest
    · rw [clockBits_change last v vs hsame]
      cases v <;> exact congrArg (List.cons _) hrest

/-- Settles O35: the order is that of `wireBits`, and the pulses carry its bits. -/
theorem farthestPacketIsSentFirst : Obligations.FarthestPacketIsSentFirst := fun batch =>
  ⟨dataAtPulses_clockBits _ none false (fun _ hv => by cases hv), wireBits_length batch, fun _ _ _ => wireBits_getElem?⟩

/-- Settles O36: the first bit is 0, and no level was emitted before it in the call. -/
theorem firstDataEventIsLow : Obligations.FirstDataEventIsLow := by
  intro batch hne
  obtain ⟨vs, hwire⟩ := wireBits_eq_false_cons hne
  exact ⟨clockBits (some false) vs ++ [.csh], by rw [serialize, hwire]; rfl⟩

/-! ### One event on its line (R174 to R179) -/

theorem driveCs_false (s : State) : s.driveCs false = { s with cs := .low, freeIndex := s.freeIndex + 1 } := by
  rw [State.driveCs, Bool.and_false]
  rfl

/-- Chip-select at 1 latches exactly if the line is found low. -/
theorem driveCs_true (s : State) : s.driveCs true = { s with
    cs := .high
    chips := if s.cs.found (Config.undrivenLevel s.freeIndex) then s.chips else latchAll s.chips
    freeIndex := s.freeIndex + 1 } := by
  rw [State.driveCs, Bool.and_true]
  cases s.cs.found (Config.undrivenLevel s.freeIndex) <;> rfl

/-- The latch keeps bits [11:0] (R181). -/
theorem writeField_eq_setWidth (w : PktWord) : writeField w = (w.setWidth 12).setWidth 16 := by
  apply BitVec.eq_of_toNat_eq
  have hmask : w.toNat &&& (2 ^ 12 - 1) = w.toNat % 2 ^ 12 := Nat.and_two_pow_sub_one_eq_mod _ _
  simp only [writeField, BitVec.toNat_and, BitVec.toNat_setWidth]
  exact hmask.trans (Nat.mod_eq_of_lt ((Nat.mod_lt _ (by decide)).trans (by decide))).symm

theorem latchAll_eq_setWidth (cs : List Chip) :
    latchAll cs = cs.map (fun c => { c with latched := some ((c.shift.setWidth 12).setWidth 16) }) := by
  simp only [latchAll, writeField_eq_setWidth]

theorem driveClk_keeps (s : State) (v : Bool) :
    (s.driveClk v).chips.map (fun c => { c with shift := 0 }) = s.chips.map (fun c => { c with shift := 0 }) := by
  rw [State.driveClk_chips]
  split
  · exact shiftChain_keeps _ _
  · rfl

/-- Settles O37: a fall of chip-select latches nothing (`driveCs_false`). -/
theorem dataAndSelectEventsDriveTheirLine : Obligations.DataAndSelectEventsDriveTheirLine := fun s =>
  ⟨rfl, rfl, congrArg Host.Outcome.next (driveCs_false s)⟩

/-- Settles O38: the three levels chip-select can be found at; from the unknown one the free value decides. -/
theorem chipSelectRiseLatchesAllChips : Obligations.ChipSelectRiseLatchesAllChips := by
  intro s
  have hcsh : exec .csh s = .next (s.driveCs true) := rfl
  simp only [← latchAll_eq_setWidth, hcsh, driveCs_true]
  refine ⟨fun h => ?_, fun h => ?_, fun h => ?_⟩ <;> rw [h]
  · rfl
  · rw [Level.found_high, if_pos rfl, ← h]
  · rw [show Level.x.found (Config.undrivenLevel s.freeIndex) = Config.undrivenLevel s.freeIndex from rfl]
    cases Config.undrivenLevel s.freeIndex
    · exact .inr rfl
    · exact .inl rfl

/-- Settles O39: a clock edge at most shifts the chain (`driveClk_keeps`). -/
theorem clockEventsDriveTheClock : Obligations.ClockEventsDriveTheClock := fun s =>
  ⟨s.driveClk true, s.driveClk false, rfl, rfl, rfl, rfl, driveClk_keeps s true, driveClk_keeps s false⟩

/-! ### One clock pulse of the chain (R181) -/

/-- A pulse moves bits [14:0] up by one and takes the new bit into bit 0. -/
theorem append_eq_shiftBit (p : PktWord) (v : Bool) : (p.extractLsb' 0 15).append (BitVec.ofBool v) = shiftBit p v := by
  apply BitVec.eq_of_getLsbD_eq
  intro i hi
  rw [BitVec.append_eq, BitVec.getLsbD_append]
  cases i with
  | zero => simp [shiftBit]
  | succ i =>
    have hlt : i < 15 := Nat.lt_of_succ_lt_succ hi
    simp [shiftBit, hlt, show i + 1 < 16 from hi, BitVec.getLsbD_eq_getElem (show i < 16 by omega)]

theorem extractLsb'_eq_msb (p : PktWord) : p.extractLsb' 15 1 = BitVec.ofBool p.msb := by
  apply BitVec.eq_of_getLsbD_eq
  intro i hi
  obtain rfl : i = 0 := by omega
  simp [BitVec.msb_eq_getLsbD_last]

theorem shiftChain_getElem?_zero (v : Bool) (cs : List Chip) :
    (shiftChain v cs)[0]? = cs[0]?.map (fun c => { c with shift := shiftBit c.shift v }) := by
  cases cs <;> rfl

theorem shiftChain_getElem?_succ (v : Bool) {cs : List Chip} {j : Nat} {b c : Chip} (hb : cs[j]? = some b)
    (hc : cs[j + 1]? = some c) :
    (shiftChain v cs)[j + 1]? = some { c with shift := shiftBit c.shift b.shift.msb } := by
  induction cs generalizing v j with
  | nil => simp at hb
  | cons x xs ih =>
    cases j with
    | zero =>
      obtain rfl : x = b := by simpa using hb
      exact (shiftChain_getElem?_zero _ xs).trans (congrArg (Option.map _) hc)
    | succ j => exact ih x.shift.msb hb hc

/-! ### Runs of pin events -/

theorem execAll_pinEvents (es : List PinEvent) (s : State) : execAll (es.map PinEvent.instr) s = some (driveAll es s) := by
  induction es generalizing s with
  | nil => rfl
  | cons e es ih => exact (execAll_cons _ (exec_pinEvent e s)).trans (ih _)

/-- Settles O40: the whole pulse is one shift of the chain (`driveAll_pulse`). -/
theorem clockPulseShiftsTheChainOnce : Obligations.ClockPulseShiftsTheChainOnce := by
  intro s v hclk hdin
  refine ⟨_, execAll_pinEvents [.ckh, .ckl] s, ?_⟩
  simp only [driveAll_pulse s v hclk hdin, append_eq_shiftBit, extractLsb'_eq_msb]
  refine ⟨trivial, shiftChain_length v s.chips, fun c hc => ?_, fun j b c hb hc => shiftChain_getElem?_succ v hb hc⟩
  rw [shiftChain_getElem?_zero, hc]
  rfl

/-- Pin events change only the lines, the chips and the draw counter. -/
theorem driveAll_frame (es : List PinEvent) (s : State) : driveAll es s = { s with
    cs := (driveAll es s).cs, clk := (driveAll es s).clk, din := (driveAll es s).din
    chips := (driveAll es s).chips, freeIndex := (driveAll es s).freeIndex } := by
  induction es generalizing s with
  | nil => rfl
  | cons e es ih =>
    obtain ⟨cs, clk, din, chips, k, he⟩ := driveEvent_eq e s
    rw [driveAll, List.foldl_cons, he]
    exact ih _

/-- The lines as the bits clocked so far leave them: clock low, data at the last level emitted. -/
def LinesAt (last : Option Bool) (s : State) : Prop := ∀ v, last = some v → s.clk = .low ∧ s.din = Level.ofBool v

theorem linesAt_bitEvents (last : Option Bool) (v : Bool) {s : State} (h : LinesAt last s) :
    LinesAt (some v) (driveAll (bitEvents last v) s) := by
  intro w hw
  cases hw
  unfold bitEvents
  split
  next hsame => exact ⟨rfl, (h v hsame).2⟩
  next => cases v <;> exact ⟨rfl, rfl⟩

theorem linesAt_clockBits (vs : List Bool) (last : Option Bool) {s : State} (h : LinesAt last s) :
    LinesAt (vs.getLast?.or last) (driveAll (clockBits last vs) s) := by
  induction vs generalizing last s with
  | nil => exact h
  | cons v vs ih =>
    have hlast : (v :: vs).getLast?.or last = vs.getLast?.or (some v) := by
      cases vs <;> simp [List.getLast?_cons]
    rw [hlast, clockBits_cons, driveAll, List.foldl_append]
    exact ih (some v) (linesAt_bitEvents last v h)

theorem driveAll_serialize (batch : List RegWrite) (s : State) :
    driveAll (serialize batch) s =
      (driveAll (clockBits none (wireBits batch)) (s.driveCs false)).driveCs true := by
  rw [serialize, driveAll, List.foldl_cons, List.foldl_append]
  rfl

/-- Settles O41: the last bit clocked is bit 0 of display 0's packet, and CSH moves neither the clock nor the data line. -/
theorem lineLevelsAfterABatch : Obligations.LineLevelsAfterABatch := by
  intro s w ws
  refine ⟨_, execAll_pinEvents _ s, (driveAll_frame _ s).trans ?_⟩
  obtain ⟨hclk, hdin⟩ := linesAt_clockBits (wireBits (w :: ws)) none (s := s.driveCs false) (fun _ hv => by cases hv)
    ((packet w).getLsbD 0) (by rw [wireBits_getLast?]; rfl)
  have hcs : (driveAll (serialize (w :: ws)) s).cs = .high := by rw [driveAll_serialize]; rfl
  have hclk : (driveAll (serialize (w :: ws)) s).clk = .low := by rw [driveAll_serialize]; exact hclk
  have hdin : (driveAll (serialize (w :: ws)) s).din = Level.ofBool ((packet w).getLsbD 0) := by
    rw [driveAll_serialize]
    exact hdin
  rw [hcs, hclk, hdin]

/-- Settles O42: up to CSH the bits are shifted in, then every chip latches the packet it holds. -/
theorem cascadeReceivesTheBatch : Obligations.CascadeReceivesTheBatch := by
  intro s batch _ hlen hclk
  refine ⟨_, execAll_pinEvents _ s, ?_⟩
  obtain ⟨d, f, hdrive⟩ := driveAll_serialize_upto_csh batch s hclk
  have hser : driveAll (serialize batch) s = (driveAll (.csl :: clockBits none (wireBits batch)) s).driveCs true :=
    driveAll_serialize batch s
  rw [hser, hdrive]
  exact latchAll_shiftAll_wireBits batch s.chips hlen

/-! ### A packet that no chip has latched -/

/-- Settles O48: every packet is performed as a register write (`exec_packet`), and there is no chip to perform it. -/
theorem unlatchedPacketChangesNothing : Obligations.UnlatchedPacketChangesNothing := by
  intro s p i hnone hi
  obtain ⟨w, rfl⟩ := eq_packet_of_decodePacket hi
  obtain ⟨j, hj, hexec⟩ := exec_packet w
  cases hj.symm.trans hi
  rw [hexec, s.perform_none _ ((latchedWord_eq_none s.chips).2 hnone)]

end Sys2Proof.Machine

/-! PROOFS. The statements about the facade (43_facade.md).

First the unsupported and the illegal commands, as instructions and as words that the block takes from its port; then the
two variants of the block, which differ in `CFG.CHECKED` alone (R200). -/

namespace Sys2Proof.Machine

/-! ### The unsupported and the illegal commands (R202, R203) -/

/-- Settles O25: NUMERIC's meaning as it stands. -/
theorem numericIsUnsupported : Obligations.NumericIsUnsupported := fun _ _ => rfl

theorem commandWord_zero (operand : BitVec 28) : commandWord 0 operand.toNat = operand.setWidth 32 := by
  apply BitVec.eq_of_toNat_eq
  have := operand.isLt
  simp only [commandWord, BitVec.toNat_ofNat, BitVec.toNat_setWidth]
  omega

/-- The word of an ILLEGAL.OP8_F is its operand below a 1 in bit 31. -/
theorem ofNat_operand31 (operand : BitVec 31) :
    BitVec.ofNat 32 (2 ^ 31 + operand.toNat) = 0x80000000#32 ||| operand.setWidth 32 := by
  apply BitVec.eq_of_toNat_eq
  have hlt := operand.isLt
  have hor : 2 ^ 31 + operand.toNat = 2 ^ 31 ||| operand.toNat := by
    simpa using Nat.two_pow_add_eq_or_of_lt hlt 1
  rw [BitVec.toNat_or, BitVec.toNat_setWidth_of_le (by decide), BitVec.toNat_ofNat,
    Nat.mod_eq_of_lt (by omega), hor]
  rfl

/-- Settles O26: the word answered is OP and the operand put together again. -/
theorem unassignedOpsAreIllegal : Obligations.UnassignedOpsAreIllegal := by
  intro s a b
  rw [← commandWord_zero, ← ofNat_operand31]
  exact ⟨rfl, rfl⟩

/-! ### Illegal words at the port (R77) -/

/-- A command word whose OP is unassigned decodes to one of the two instructions that stand for it (R77 (a)). -/
theorem decodeCommand_unassigned {w : CmdWord} (h : bits w 31 28 = 0 ∨ 8 ≤ bits w 31 28) :
    ∃ i, decodeCommand [w] = .ok (i, []) ∧ ((∃ a, i = .illegalOp0 a) ∨ ∃ b, i = .illegalOp8F b) := by
  obtain h0 | h8 := h
  · exact ⟨_, decodeCommand_illegalOp0 [] h0, .inl ⟨_, rfl⟩⟩
  · exact ⟨_, decodeCommand_illegalOp8F [] h8, .inr ⟨_, rfl⟩⟩

section
variable {s : State} {w : CmdWord} {rest : List CmdWord}

/-- A word with an unassigned OP is taken and answered. The instruction it decodes to encodes to that word again, so the
word answered is the word taken. -/
theorem step_unassigned (ht : s.blockTurn) (hi : s.intake = []) (hp : s.port = w :: rest)
    (hop : bits w 31 28 = 0 ∨ 8 ≤ bits w 31 28) :
    step s = .next { s with port := rest, response := some (.illegalCommand w) } := by
  obtain ⟨i, hd, hillegal⟩ := decodeCommand_unassigned hop
  obtain ⟨_, henc⟩ := encodeOfDecodeIsIdentity _ i ((decode_command_iff [w] i).2 hd)
  rw [step_command ht hi hp hd]
  obtain ⟨a, rfl⟩ | ⟨b, rfl⟩ := hillegal
  · cases henc
    rfl
  · cases henc
    rfl

/-- A command word with a reserved bit set is taken and refused at once (R77 (b)). -/
theorem step_reserved (ht : s.blockTurn) (hi : s.intake = []) (hp : s.port = w :: rest)
    (hd : decodeCommand [w] = .error (.reservedBits w)) :
    step s = .next { s with port := rest, response := some (.illegalCommand w) } := by
  simp only [step, fetch_of_blockTurn ht, fetchBlock, hi, hp, fetchCommand, hd, State.raise, State.respond]

end

/-- Settles O27: the first two ways are an unassigned OP, the others a reserved bit that the decoder rejects (O4). -/
theorem illegalWordsAtThePort : Obligations.IllegalWordsAtThePort := by
  intro s w rest ht hi hp hw
  obtain h0 | h8 | hres := hw
  · exact step_unassigned ht hi hp (.inl (op_of_shiftRight h0))
  · rw [toNat_shiftRight_eq_bits w 28] at h8
    exact step_unassigned ht hi hp (.inr h8)
  · exact step_reserved ht hi hp (setReservedBitsAreRejected w [] hres)

/-! ### The two variants (R200) -/

/-- The same state in the variant with the given CHECKED. -/
def State.withChecked (s : State) (k : Bool) : State := { s with cfg := { s.cfg with checked := k } }

/-- The instruction completes, and with the other CHECKED it does the same. -/
def AgreesInVariant (k : Bool) (i : Instr) (s : State) : Prop :=
  ∃ t, exec i s = .next t ∧ exec i (s.withChecked k) = .next (t.withChecked k)

theorem State.withChecked_perform (s : State) (k : Bool) (f : Nat → Chip → Chip) :
    (s.withChecked k).perform f = (s.perform f).withChecked k := by
  cases h : latchedWord s.chips with
  | none => rw [s.perform_none f h, (s.withChecked k).perform_none f h]
  | some w => simp only [State.perform, State.withChecked, h]

/-- A chip's register write does not look at the configuration. -/
theorem agreesInVariant_of_perform {k : Bool} {i : Instr} {s : State} {f : Nat → Chip → Chip}
    (h : ∀ u, exec i u = .next (u.perform f)) : AgreesInVariant k i s :=
  ⟨_, h s, by rw [h, s.withChecked_perform]⟩

/-- CHECKED is read only by an accessor whose coordinate is out of range. -/
theorem agreesInVariant (k : Bool) (i : Instr) (s : State)
    (hset : ∀ row col on, i = .setled row col on → s.cfg.inRange row col = true)
    (hget : ∀ row col, i = .getled row col → s.cfg.inRange row col = true) : AgreesInVariant k i s := by
  cases i with
  | setled row col on =>
    have hr := hset row col on rfl
    exact ⟨_, exec_setled_inRange on hr, exec_setled_inRange (s := s.withChecked k) on hr⟩
  | getled row col =>
    have hr := hget row col rfl
    exact ⟨_, exec_getled_inRange hr, exec_getled_inRange (s := s.withChecked k) hr⟩
  | draw =>
    cases hd : s.dirty with
    | false => exact ⟨_, exec_draw_clean hd, exec_draw_clean (s := s.withChecked k) hd⟩
    | true => exact ⟨_, exec_draw_dirty hd, exec_draw_dirty (s := s.withChecked k) hd⟩
  | exec batch =>
    by_cases hlen : batch.length = s.cfg.n
    · exact ⟨_, if_pos hlen, if_pos hlen⟩
    · exact ⟨_, if_neg hlen, if_neg hlen⟩
  | execPayload addr data =>
    by_cases hin : s.intake.isEmpty = true
    · exact ⟨_, if_pos hin, if_pos hin⟩
    · exact ⟨_, if_neg hin, if_neg hin⟩
  | noop data =>
    by_cases hd : data = 0
    · exact agreesInVariant_of_perform fun _ => if_pos hd
    · exact agreesInVariant_of_perform fun _ => if_neg hd
  | digit0 | digit1 | digit2 | digit3 | digit4 | digit5 | digit6 | digit7 | decodemode | intensity | scanlimit
  | shutdown | addrD | addrE | displaytest => exact agreesInVariant_of_perform fun _ => rfl
  | reset | execall | numeric | illegalOp0 | illegalOp8F | csh | csl | ckh | ckl | dh | dl => exact ⟨_, rfl, rfl⟩

/-- Settles O30: the case split over the instructions, with the accessors in range. -/
theorem variantsAgreeInRange : Obligations.VariantsAgreeInRange := fun i s k => agreesInVariant k i s

end Sys2Proof.Machine

/-! PROOFS. The statements about the errors and the responses (60_exceptions.md).

First what an instruction can leave as the pending response, so that one with an error is its whole effect; then why a sound
state never meets one of the codes of I9; then the response word. -/

namespace Sys2Proof.Machine

/-! ### What an error leaves unchanged (R221) -/

/-- An instruction does nothing but answer, or answers a plain OK, or does not answer at all. -/
theorem exec_response_cases {i : Instr} {s t : State} (h : exec i s = .next t) :
    (∃ r, t = s.respond r) ∨ t.response = some (.ok none) ∨ t.response = s.response := by
  obtain ⟨r, he⟩ | ⟨_, _, _, _, _, he⟩ | ⟨_, _, he⟩ | ⟨_, he⟩ | ⟨_, _, he⟩ | ⟨_, _, he⟩ | ⟨f, he⟩ | ⟨_, he⟩ | ⟨_, he⟩ |
    ⟨_, he⟩ := exec_cases i s <;> cases he.symm.trans h
  · exact .inl ⟨r, rfl⟩
  · exact .inr (.inl rfl)
  · exact .inr (.inl rfl)
  · exact .inr (.inl rfl)
  · exact .inr (.inl rfl)
  · exact .inr (.inr rfl)
  · exact .inr (.inr (s.perform_response f))
  · exact .inr (.inr rfl)
  · exact .inr (.inr rfl)
  · exact .inr (.inr rfl)

/-- Settles O28: an error is neither a plain OK nor the response from before, so the instruction only answered. -/
theorem errorsChangeNothingElse : Obligations.ErrorsChangeNothingElse := by
  intro i s t r h hnone hr herr
  obtain ⟨q, rfl⟩ | hok | hkeep := exec_response_cases h
  · cases hr
    rfl
  · cases hok.symm.trans hr
    exact absurd rfl herr
  · cases (hnone.symm.trans hkeep.symm).trans hr

/-! ### A sound state never stops (R239, I9) -/

/-- A word whose bits [15:12] are 0 is the packet of a register write (R71). -/
theorem eq_packet_of_lt {p : PktWord} (h : p.toNat < 2 ^ 12) : ∃ w, p = packet w := by
  refine ⟨⟨p.toNat / 256, p.setWidth 8⟩, BitVec.eq_of_toNat_eq ?_⟩
  simp only [packet_toNat, BitVec.toNat_setWidth]
  omega

/-- A code other than the reserved 6 and 7 is the code of a pin event (R72). -/
theorem eq_code_of_lt {c : PinCode} (h : c.toNat < 6) : ∃ e : PinEvent, c = e.code := by
  have hdecodes : ∀ c : PinCode, c.toNat < 6 → ∃ e ∈ [PinEvent.csh, .csl, .ckh, .ckl, .dh, .dl], c = e.code := by decide
  obtain ⟨e, _, he⟩ := hdecodes c h
  exact ⟨e, he⟩

/-- What a chip of a sound state has latched is a packet. -/
theorem State.Inv.latchedWord_eq_packet {s : State} (hs : s.Inv) {p : PktWord} (hp : latchedWord s.chips = some p) :
    ∃ w, p = packet w := by
  obtain ⟨pre, c, post, hchips, _, hc⟩ := latchedWord_split s.chips p hp
  have hmem : c ∈ s.chips := by simp [hchips]
  exact eq_packet_of_lt (hs.latchedDefined c hmem p hc)

/-- The stream of a sound state holds the codes of pin events only. -/
theorem State.Inv.out_eq_code {s : State} (hs : s.Inv) {n : Nat} {c : PinCode} (hc : s.out[n]? = some c) :
    ∃ e : PinEvent, c = e.code :=
  eq_code_of_lt (hs.codesDefined c (List.mem_of_getElem? hc))

/-- The block's own turn never stops, whatever word it takes: an illegal word is answered (R203). -/
theorem step_goes_of_blockTurn {s : State} (ht : s.blockTurn) : Goes (step s) := by
  rw [step, fetch_of_blockTurn ht]
  obtain ⟨i, p, q, hb⟩ | ⟨p, q, r, hb⟩ := fetchBlock_blockFetched s <;> rw [hb]
  · exact exec_goes i _
  · exact ⟨_, rfl⟩

/-- Settles O57: every instruction completes, and the two faults of I9 need a latched word or a code that is not there. -/
theorem soundStatesNeverStop : Obligations.SoundStatesNeverStop := by
  intro s hs
  obtain ⟨p, hp, _⟩ | ⟨hnone, c, hc, _⟩ | ⟨_, _, r, _, hstep⟩ | ⟨hturn, _⟩ := step_cases s
  · obtain ⟨w, rfl⟩ := hs.latchedWord_eq_packet hp
    exact ⟨_, step_latched hp⟩
  · obtain ⟨e, rfl⟩ := hs.out_eq_code hc
    rw [step_pin hnone hc (decodePin_code e)]
    exact exec_goes e.instr _
  · exact ⟨_, hstep⟩
  · exact step_goes_of_blockTurn hturn

/-! ### The response word (R220, R227) -/

theorem Response.status_le (r : Response) : r.status ≤ 5 := by
  cases r <;> simp [Response.status]

theorem Response.value_eq_some_iff (r : Response) (v : Bool) : r.value = some v ↔ r = .ok (some v) := by
  cases r <;> simp [Response.value]

/-- Settles O29: STATUS and VALUE are apart in the word, so each of the six codes with either bit shows both fields. -/
theorem responseWordLayout : Obligations.ResponseWordLayout := by
  intro r
  have hstatus := r.status_le
  rw [← r.value_eq_some_iff, Response.word]
  generalize r.status = k at hstatus
  by_cases hv : r.value = some true
  · simp only [hv, if_true]
    interval_cases k <;> decide
  · simp only [hv, if_false]
    interval_cases k <;> decide

end Sys2Proof.Machine

/-! PROOFS. The statements about construction, and about the bounds on a command's output and on the work it leaves pending
(70_reset_and_hazards.md).

First how long the event sequence of a batch can be, which bounds what each command emits; then construction; then a count of
the pending work that every step outside the block's turn makes smaller. -/

namespace Sys2Proof.Machine

/-! ### The most events a command emits (R269) -/

/-- A batch's events, an empty one's too: two of chip-select, and at most three for each of its bits (R173). -/
theorem serialize_length_le (batch : List RegWrite) : (serialize batch).length ≤ 2 + 48 * batch.length := by
  obtain ⟨d, hd, hlen⟩ := clockBits_length none (wireBits batch)
  rw [wireBits_length] at hd hlen
  rw [serialize, List.length_cons, List.length_append, hlen, List.length_singleton]
  omega

/-- Batches of one width: each emits at most that width's bound. -/
theorem flatMap_serialize_length_le {bs : List (List RegWrite)} {n : Nat} (h : ∀ b ∈ bs, b.length = n) :
    (bs.flatMap serialize).length ≤ bs.length * (2 + 48 * n) := by
  induction bs with
  | nil => exact Nat.zero_le _
  | cons b bs ih =>
    obtain ⟨hb, hbs⟩ := List.forall_mem_cons.1 h
    have hle := serialize_length_le b
    rw [hb] at hle
    rw [List.flatMap_cons, List.length_append, List.length_cons, Nat.succ_mul, Nat.add_comm]
    exact Nat.add_le_add (ih hbs) hle

/-- The instruction completes, and adds at most m events to the stream. -/
def EmitsAtMost (m : Nat) (i : Instr) (s : State) : Prop :=
  ∃ t, exec i s = .next t ∧ t.out.length ≤ s.out.length + m

theorem emitsAtMost_of_append {m : Nat} {i : Instr} {s t : State} {es : List PinEvent} (he : exec i s = .next t)
    (hout : t.out = s.out ++ es.map PinEvent.code) (hle : es.length ≤ m) : EmitsAtMost m i s := by
  refine ⟨t, he, ?_⟩
  rw [hout, List.length_append, List.length_map]
  exact Nat.add_le_add_left hle _

theorem emitsAtMost_of_out_eq {m : Nat} {i : Instr} {s t : State} (he : exec i s = .next t) (hout : t.out = s.out) :
    EmitsAtMost m i s :=
  emitsAtMost_of_append (es := []) he (by simpa using hout) (Nat.zero_le m)

theorem draw_emitsAtMost {s : State} (hs : s.Inv) : EmitsAtMost (s.cfg.dr * (2 + 48 * s.cfg.n)) .draw s := by
  cases hd : s.dirty with
  | false => exact emitsAtMost_of_out_eq (exec_draw_clean hd) rfl
  | true =>
    have hcount : (drawBatches s).length ≤ s.cfg.dr := (drawBatches_length s).trans_le (stepCount_changeLists_le s)
    exact emitsAtMost_of_append (exec_draw_dirty hd) rfl
      ((flatMap_serialize_length_le (drawBatches_mem_length hs)).trans (Nat.mul_le_mul_right _ hcount))

theorem resetWrites_length (g : Cfg) : (resetWrites g).length = 5 + g.dr := by
  rw [resetWrites, List.length_append, List.length_map, List.length_range]
  rfl

theorem reset_emitsAtMost {s : State} (hs : s.Inv) : EmitsAtMost ((5 + s.cfg.dr) * (2 + 48 * s.cfg.n)) .reset s := by
  refine emitsAtMost_of_append (exec_reset s hs.legal) rfl ?_
  have hcount : ((resetWrites s.cfg).map (List.replicate s.cfg.n)).length = 5 + s.cfg.dr := by
    rw [List.length_map, resetWrites_length]
  rw [← hcount]
  refine flatMap_serialize_length_le fun b hb => ?_
  obtain ⟨w, _, rfl⟩ := List.mem_map.1 hb
  exact List.length_replicate

theorem execall_emitsAtMost (addr : Nat) (data : Byte) (s : State) :
    EmitsAtMost (2 + 48 * s.cfg.n) (.execall addr data) s := by
  refine emitsAtMost_of_append (es := serialize (List.replicate s.cfg.n ⟨addr, data⟩)) rfl rfl ?_
  exact (serialize_length_le _).trans_eq (by rw [List.length_replicate])

theorem exec_emitsAtMost (batch : List RegWrite) (s : State) : EmitsAtMost (2 + 48 * s.cfg.n) (.exec batch) s := by
  by_cases hlen : batch.length = s.cfg.n
  · exact emitsAtMost_of_append (if_pos hlen) rfl (hlen ▸ serialize_length_le batch)
  · exact emitsAtMost_of_out_eq (if_neg hlen) rfl

theorem accessors_emitNothing (row col : Int) (on : Bool) (s : State) :
    EmitsAtMost 0 (.setled row col on) s ∧ EmitsAtMost 0 (.getled row col) s := by
  cases hr : s.cfg.inRange row col with
  | true =>
    exact ⟨emitsAtMost_of_out_eq (exec_setled_inRange on hr) rfl, emitsAtMost_of_out_eq (exec_getled_inRange hr) rfl⟩
  | false =>
    obtain ⟨hset, hget⟩ := exec_accessors_outOfRange on hr
    exact ⟨emitsAtMost_of_out_eq hset rfl, emitsAtMost_of_out_eq hget rfl⟩

theorem execPayload_emitsNothing (addr : Nat) (data : Byte) (s : State) :
    EmitsAtMost 0 (.execPayload addr data) s := by
  by_cases hin : s.intake.isEmpty = true
  · exact emitsAtMost_of_out_eq (if_pos hin) rfl
  · exact emitsAtMost_of_out_eq (if_neg hin) rfl

/-- A chip's register write is outside the block. -/
theorem perform_emitsNothing {i : Instr} {s : State} {f : Nat → Chip → Chip} (h : exec i s = .next (s.perform f)) :
    EmitsAtMost 0 i s :=
  emitsAtMost_of_out_eq h (s.perform_out f)

/-- Settles O22: DRAW and RESET by their number of batches, the raw paths by their one batch, and nothing else emits. -/
theorem commandOutputIsBounded : Obligations.CommandOutputIsBounded := by
  intro i s hs
  cases i with
  | setled row col on => exact (accessors_emitNothing row col on s).1
  | getled row col => exact (accessors_emitNothing row col true s).2
  | draw => exact draw_emitsAtMost hs
  | reset => exact reset_emitsAtMost hs
  | execall addr data => exact execall_emitsAtMost addr data s
  | exec batch => exact exec_emitsAtMost batch s
  | execPayload addr data => exact execPayload_emitsNothing addr data s
  | noop data =>
    by_cases hd : data = 0
    · exact perform_emitsNothing (if_pos hd)
    · exact perform_emitsNothing (if_neg hd)
  | digit0 | digit1 | digit2 | digit3 | digit4 | digit5 | digit6 | digit7 | decodemode | intensity | scanlimit
  | shutdown | addrD | addrE | displaytest => exact perform_emitsNothing rfl
  | numeric | illegalOp0 | illegalOp8F | csh | csl | ckh | ckl | dh | dl => exact emitsAtMost_of_out_eq rfl rfl

/-! ### Construction (R250, R251, R222) -/

/-- Settles O55: the construction state is sound and shows everything 0, and the two results exclude each other. -/
theorem constructionResult : Obligations.ConstructionResult := by
  intro dr dc v h checked
  refine ⟨fun hlegal => ?_, fun hillegal => if_neg hillegal⟩
  obtain ⟨g, hok, hg, hdr, hdc, hv, hh, hchecked⟩ | herr := construct_cases dr dc v h checked
  · obtain ⟨_, _, _, _, _, _, hcoord, _⟩ := g.legal_iff.1 hg
    exact ⟨State.initial g, hok, State.initial_inv g hg, hdr, hdc, hv, hh, hchecked, hcoord,
      fun _ hw => List.eq_of_mem_replicate hw, fun _ hw => List.eq_of_mem_replicate hw, rfl, rfl, rfl, rfl, rfl, rfl, rfl⟩
  · cases (if_pos hlegal).symm.trans herr

/-! ### The pending work (R55, R269) -/

/-- How many chips have a register write to perform. -/
def latchedCount (cs : List Chip) : Nat := cs.countP fun c => c.latched.isSome

/-- A bound on the steps to the block's next turn: an event costs its own replay and, if it is a CSH, a write of each chip;
then come the writes already latched and the delivery of the response. -/
def State.workLeft (s : State) : Nat :=
  s.pending.length * (s.cfg.n + 1) + latchedCount s.chips + s.response.toList.length

theorem State.Inv.latchedCount_le {s : State} (hs : s.Inv) : latchedCount s.chips ≤ s.cfg.n :=
  List.countP_le_length.trans_eq hs.chipsLength

theorem State.Inv.workLeft_le {s : State} (hs : s.Inv) :
    s.workLeft ≤ (s.out.length - s.replayed) * (s.cfg.n + 1) + s.cfg.n + 1 := by
  have hresponse : s.response.toList.length ≤ 1 := by cases s.response <;> simp
  rw [State.workLeft, State.pending, List.length_drop]
  exact Nat.add_le_add (Nat.add_le_add_left hs.latchedCount_le _) hresponse

theorem latchedCount_perform {s : State} {p : PktWord} (hp : latchedWord s.chips = some p) (f : Nat → Chip → Chip) :
    latchedCount (s.perform f).chips + 1 = latchedCount s.chips := by
  obtain ⟨pre, c, post, hchips, hpre, hc⟩ := latchedWord_split s.chips p hp
  rw [s.perform_some f pre post c p hchips hpre hc, hchips]
  simp [latchedCount, hc, Nat.add_assoc]

/-- A chip's write is one piece of work less. -/
theorem workLeft_perform {s : State} {p : PktWord} (hp : latchedWord s.chips = some p) (f : Nat → Chip → Chip) :
    (s.perform f).workLeft < s.workLeft := by
  have hcount := latchedCount_perform hp f
  simp only [State.workLeft, State.pending, State.perform_out, State.perform_replayed, State.perform_cfg,
    State.perform_response]
  omega

/-- A replayed event is worth more than the chips it can make latch. -/
theorem workLeft_event {s t : State} (ht : t.Inv) (hlt : s.replayed < s.out.length) (hcfg : t.cfg = s.cfg)
    (hout : t.out = s.out) (hrep : t.replayed = s.replayed + 1) (hresp : t.response = s.response) :
    t.workLeft < s.workLeft := by
  have hcount := ht.latchedCount_le
  have hpending : s.pending.length = t.pending.length + 1 := by
    simp only [State.pending, List.length_drop, hout, hrep]
    omega
  rw [State.workLeft, State.workLeft, hpending, hresp, hcfg, Nat.succ_mul]
  rw [hcfg] at hcount
  omega

theorem workLeft_deliver {s : State} {r : Response} (hr : s.response = some r) : (s.deliver r).workLeft < s.workLeft := by
  simp [State.workLeft, State.pending, hr]

/-- Outside the block's turn a sound state's step goes on and leaves less work. -/
theorem step_workLeft_lt {s : State} (hs : s.Inv) (hbusy : ¬ s.blockTurn) :
    ∃ t, step s = .next t ∧ t.workLeft < s.workLeft := by
  obtain ⟨p, hp, _⟩ | ⟨hnone, c, hc, _⟩ | ⟨_, _, r, hr, hstep⟩ | ⟨hturn, _⟩ := step_cases s
  · obtain ⟨w, rfl⟩ := hs.latchedWord_eq_packet hp
    exact ⟨_, step_latched hp, workLeft_perform hp _⟩
  · obtain ⟨e, rfl⟩ := hs.out_eq_code hc
    have hstep := (step_pin hnone hc (decodePin_code e)).trans (exec_pinEvent e _)
    have hinv := everyStepKeepsTheInvariant s _ hs hstep
    obtain ⟨hlt, _⟩ := List.getElem?_eq_some_iff.1 hc
    obtain ⟨_, _, _, _, _, hdrive⟩ := driveEvent_eq e { s with replayed := s.replayed + 1 }
    rw [hdrive] at hstep hinv
    exact ⟨_, hstep, workLeft_event hinv hlt rfl rfl rfl rfl⟩
  · exact ⟨_, hstep, workLeft_deliver hr⟩
  · exact absurd hturn hbusy

/-- The block has its turn within as many steps as there is work left. -/
theorem blockTurn_within_workLeft {s : State} (hs : s.Inv) :
    ∃ k t, k ≤ s.workLeft ∧ stepN k s = some t ∧ t.blockTurn := by
  induction hm : s.workLeft using Nat.strong_induction_on generalizing s with
  | _ m ih =>
    by_cases hturn : s.blockTurn
    · exact ⟨0, s, Nat.zero_le _, rfl, hturn⟩
    · obtain ⟨t, hstep, hlt⟩ := step_workLeft_lt hs hturn
      obtain ⟨k, u, hk, hrun, hu⟩ := ih t.workLeft (hm ▸ hlt) (everyStepKeepsTheInvariant s t hs hstep) rfl
      exact ⟨k + 1, u, hm ▸ Nat.succ_le_of_lt (Nat.lt_of_le_of_lt hk hlt), (stepN_succ hstep).trans hrun, hu⟩

/-- Settles O58: the work left in a sound state is within the bound. -/
theorem pendingWorkEnds : Obligations.PendingWorkEnds := by
  intro s hs
  obtain ⟨k, t, hk, hrun, hturn⟩ := blockTurn_within_workLeft hs
  exact ⟨k, t, hk.trans hs.workLeft_le, hrun, hturn⟩

end Sys2Proof.Machine

/-! PROOFS. The sample words of the test vectors (95_test_vectors.md): each is written out by the encoder from its
instruction, and the round trip reads it back. -/

namespace Sys2Proof.Machine

/-- The decoder reads a code as the instruction whose encoding it is. -/
theorem decode_of_encode_eq {i : Instr} {c : Code} (hwf : i.wf = true) (hc : encode i = c) : decode c = .ok i :=
  hc ▸ decodeOfEncodeIsIdentity i hwf

/-- Settles O5: each code is the encoding of its instruction, whose operands fit. -/
theorem sampleWordsDecode : Obligations.SampleWordsDecode := by
  and_intros
  all_goals exact decode_of_encode_eq (by decide) (by decide)

end Sys2Proof.Machine
